-- ==== Sys2Proof/Word.lean ====
section
/-! DEFINITION. The words of the machine and nothing else: every value is an unsigned integer of a stated width, bit 0 the least
significant (spec/00_scope.md R8). -/

namespace Sys2Proof

/-- One byte: a memory cell, a general register, a timer, an immediate `kk` (R6). -/
abbrev Byte := BitVec 8

/-- 16 bits: `pc`, `I`, a stack entry, an instruction word (R6). -/
abbrev Word := BitVec 16

/-- The 12-bit address operand `nnn` (R8, R92). -/
abbrev Addr := BitVec 12

/-- A 4-bit operand: the row count `n` of Draw (R8, R92). -/
abbrev Nibble := BitVec 4

/-- The index of a general register, 0 to 15: a 4-bit field can never be out of range (R20). -/
abbrev Reg := Fin 16

/-- A key code, 0 to 15 (R34, R35). -/
abbrev KeyCode := Fin 16

/-- A column of the frame buffer, 0 (left) to 63 (R200). -/
abbrev Col := Fin 64

/-- A row of the frame buffer, 0 to 31 (R200). -/
abbrev Row := Fin 32

/-- Register 15, also called VF (R22). -/
def vf : Reg := 15

/-- Register 0, the one JumpAddV0 reads (R21). -/
def v0 : Reg := 0

end Sys2Proof
end

