-- ==== Sys2Proof/Syntax.lean ====
section
/-! DEFINITION. The 35 instruction forms of spec/30_encoding.md R97, one constructor a row of spec/opcode_table.json, in its order.
The value UnknownOpcode is no form: it is the decoder's failure (Sys2Proof/Decode.lean). -/

namespace Sys2Proof

/-- An instruction form with its operands: `x`, `y` register indices, `kk` an 8-bit immediate, `nnn` a 12-bit address, `n` a row
count (R92). ShiftR and ShiftL have no `y` operand and SkipEq no low nibble (R98). -/
inductive Instr where
  | clear
  | ret
  | sys (nnn : Addr)
  | jump (nnn : Addr)
  | call (nnn : Addr)
  | skipEqI (x : Reg) (kk : Byte)
  | skipNeqI (x : Reg) (kk : Byte)
  | skipEq (x y : Reg)
  | loadI (x : Reg) (kk : Byte)
  | addI (x : Reg) (kk : Byte)
  | loadR (x y : Reg)
  | or (x y : Reg)
  | and (x y : Reg)
  | xor (x y : Reg)
  | add (x y : Reg)
  | sub (x y : Reg)
  | shiftR (x : Reg)
  | subN (x y : Reg)
  | shiftL (x : Reg)
  | skipNeq (x y : Reg)
  | loadIdx (nnn : Addr)
  | jumpAddV0 (nnn : Addr)
  | rand (x : Reg) (kk : Byte)
  | draw (x y : Reg) (n : Nibble)
  | skipEqKey (x : Reg)
  | skipNeqKey (x : Reg)
  | loadFromDT (x : Reg)
  | loadKey (x : Reg)
  | setDT (x : Reg)
  | setST (x : Reg)
  | addIdx (x : Reg)
  | loadSprite (x : Reg)
  | loadBCD (x : Reg)
  | storeRegs (x : Reg)
  | readRegs (x : Reg)
  deriving DecidableEq, Repr

end Sys2Proof
end

