-- ==== Sys2Proof/WellFormed.lean ====
section
/-! DEFINITION. Which instructions some word encodes. The operand types already bound every field; one check is left, the exception
of SYS in spec/30_encoding.md R97: the words 00E0 and 00EE are Clear and Return. -/

namespace Sys2Proof

/-- Some word encodes the instruction: SYS excludes the two words of Clear and Return (R94, R97); every other form takes every
value of its fields. -/
def Instr.wellFormed : Instr → Bool
  | .sys nnn => nnn != 0x0E0 && nnn != 0x0EE
  | .clear | .ret | .jump _ | .call _ | .skipEqI _ _ | .skipNeqI _ _ | .skipEq _ _ | .loadI _ _ | .addI _ _ | .loadR _ _
  | .or _ _ | .and _ _ | .xor _ _ | .add _ _ | .sub _ _ | .shiftR _ | .subN _ _ | .shiftL _ | .skipNeq _ _ | .loadIdx _
  | .jumpAddV0 _ | .rand _ _ | .draw _ _ _ | .skipEqKey _ | .skipNeqKey _ | .loadFromDT _ | .loadKey _ | .setDT _ | .setST _
  | .addIdx _ | .loadSprite _ | .loadBCD _ | .storeRegs _ | .readRegs _ => true

end Sys2Proof
end

