-- ==== Sys2Proof/Decode.lean ====
section
/-! DEFINITION. The decoder of spec/30_encoding.md (R91 to R99), total on any bytes, and after it the encoder written from the same
table (R97). Except for Clear, Return and SYS the opcode numbers are the customary CHIP-8 ones the spec adopts by its decision D1
(UNVERIFIED against the repository, log entry 8). -/

namespace Sys2Proof

/-- Why bytes give no instruction. -/
inductive DecodeError where
  /-- The word is in the UnknownOpcode set (R99); not an error of the machine, which runs it as a no-op (R127). Safe. -/
  | unknownOpcode
  /-- Fewer than the two bytes of an instruction (R90). No fetch gives it; safe. -/
  | truncated
  deriving DecidableEq, Repr

/-- `word[15:12]`, the family (R8). -/
def famOf (w : Word) : BitVec 4 := w.extractLsb' 12 4

/-- `nnn = word[11:0]` (R92). -/
def nnnOf (w : Word) : Addr := w.extractLsb' 0 12

/-- `x = word[11:8]`, a register index (R92). -/
def xOf (w : Word) : Reg := (w.extractLsb' 8 4).toFin

/-- `y = word[7:4]`, a register index (R92). -/
def yOf (w : Word) : Reg := (w.extractLsb' 4 4).toFin

/-- `kk = word[7:0]` (R92). -/
def kkOf (w : Word) : Byte := w.extractLsb' 0 8

/-- `n = word[3:0]` (R92). -/
def nOf (w : Word) : Nibble := w.extractLsb' 0 4

/-- Family 0: two literal words, every other word is SYS (R94). -/
def decode0 (w : Word) : Except DecodeError Instr :=
  if w = 0x00E0 then .ok .clear
  else if w = 0x00EE then .ok .ret
  else .ok (.sys (nnnOf w))

/-- Family 8: second dispatch on the low nibble (R95); the `y` field of the shifts is not examined (R98). -/
def decode8 (w : Word) : Except DecodeError Instr :=
  match nOf w with
  | 0x0 => .ok (.loadR (xOf w) (yOf w))
  | 0x1 => .ok (.or (xOf w) (yOf w))
  | 0x2 => .ok (.and (xOf w) (yOf w))
  | 0x3 => .ok (.xor (xOf w) (yOf w))
  | 0x4 => .ok (.add (xOf w) (yOf w))
  | 0x5 => .ok (.sub (xOf w) (yOf w))
  | 0x6 => .ok (.shiftR (xOf w))
  | 0x7 => .ok (.subN (xOf w) (yOf w))
  | 0xE => .ok (.shiftL (xOf w))
  | _ => .error .unknownOpcode

/-- Family 9: second dispatch on the low nibble (R96). -/
def decode9 (w : Word) : Except DecodeError Instr :=
  match nOf w with
  | 0x0 => .ok (.skipNeq (xOf w) (yOf w))
  | _ => .error .unknownOpcode

/-- Family E: second dispatch on the low byte (R96). -/
def decodeE (w : Word) : Except DecodeError Instr :=
  match kkOf w with
  | 0x9E => .ok (.skipEqKey (xOf w))
  | 0xA1 => .ok (.skipNeqKey (xOf w))
  | _ => .error .unknownOpcode

/-- Family F: second dispatch on the low byte (R96). -/
def decodeF (w : Word) : Except DecodeError Instr :=
  match kkOf w with
  | 0x07 => .ok (.loadFromDT (xOf w))
  | 0x0A => .ok (.loadKey (xOf w))
  | 0x15 => .ok (.setDT (xOf w))
  | 0x18 => .ok (.setST (xOf w))
  | 0x1E => .ok (.addIdx (xOf w))
  | 0x29 => .ok (.loadSprite (xOf w))
  | 0x33 => .ok (.loadBCD (xOf w))
  | 0x55 => .ok (.storeRegs (xOf w))
  | 0x65 => .ok (.readRegs (xOf w))
  | _ => .error .unknownOpcode

/-- `decode(word)` (R93): a total function of the word. The last line is reached by no value of a 4-bit family. -/
def decode (w : Word) : Except DecodeError Instr :=
  match famOf w with
  | 0x0 => decode0 w
  | 0x1 => .ok (.jump (nnnOf w))
  | 0x2 => .ok (.call (nnnOf w))
  | 0x3 => .ok (.skipEqI (xOf w) (kkOf w))
  | 0x4 => .ok (.skipNeqI (xOf w) (kkOf w))
  | 0x5 => .ok (.skipEq (xOf w) (yOf w))
  | 0x6 => .ok (.loadI (xOf w) (kkOf w))
  | 0x7 => .ok (.addI (xOf w) (kkOf w))
  | 0x8 => decode8 w
  | 0x9 => decode9 w
  | 0xA => .ok (.loadIdx (nnnOf w))
  | 0xB => .ok (.jumpAddV0 (nnnOf w))
  | 0xC => .ok (.rand (xOf w) (kkOf w))
  | 0xD => .ok (.draw (xOf w) (yOf w) (nOf w))
  | 0xE => decodeE w
  | 0xF => decodeF w
  | _ => .error .unknownOpcode

/-- The word two bytes make: the byte at the lower address is the high one (R67). -/
def wordOfBytes (hi lo : Byte) : Word := hi ++ lo

/-- Decoding of a byte string: the first two bytes, high byte first, and what is left of it. -/
def decodeBytes : List Byte → Except DecodeError (Instr × List Byte)
  | hi :: lo :: rest =>
    match decode (wordOfBytes hi lo) with
    | .ok i => .ok (i, rest)
    | .error e => .error e
  | [_] => .error .truncated
  | [] => .error .truncated

/-- A row of the opcode table: a word `w` is that form when `w AND mask = match` (R97). -/
structure OpcodeRow where
  mnemonic : String
  pattern : Word
  mask : Word
  deriving DecidableEq, Repr

/-- The 35 rows of R97 in their order, which is a valid priority order (R105); the `match` column is the field `pattern`. -/
def opcodeTable : List OpcodeRow :=
  [⟨"Clear", 0x00E0, 0xFFFF⟩, ⟨"Return", 0x00EE, 0xFFFF⟩, ⟨"SYS", 0x0000, 0xF000⟩,
   ⟨"Jump", 0x1000, 0xF000⟩, ⟨"Call", 0x2000, 0xF000⟩, ⟨"SkipEqI", 0x3000, 0xF000⟩,
   ⟨"SkipNeqI", 0x4000, 0xF000⟩, ⟨"SkipEq", 0x5000, 0xF000⟩, ⟨"LoadI", 0x6000, 0xF000⟩,
   ⟨"AddI", 0x7000, 0xF000⟩, ⟨"LoadR", 0x8000, 0xF00F⟩, ⟨"Or", 0x8001, 0xF00F⟩] ++
  [⟨"And", 0x8002, 0xF00F⟩, ⟨"Xor", 0x8003, 0xF00F⟩, ⟨"Add", 0x8004, 0xF00F⟩,
   ⟨"Sub", 0x8005, 0xF00F⟩, ⟨"ShiftR", 0x8006, 0xF00F⟩, ⟨"SubN", 0x8007, 0xF00F⟩,
   ⟨"ShiftL", 0x800E, 0xF00F⟩, ⟨"SkipNeq", 0x9000, 0xF00F⟩, ⟨"LoadIdx", 0xA000, 0xF000⟩,
   ⟨"JumpAddV0", 0xB000, 0xF000⟩, ⟨"Rand", 0xC000, 0xF000⟩, ⟨"Draw", 0xD000, 0xF000⟩] ++
  [⟨"SkipEqKey", 0xE09E, 0xF0FF⟩, ⟨"SkipNeqKey", 0xE0A1, 0xF0FF⟩, ⟨"LoadFromDT", 0xF007, 0xF0FF⟩,
   ⟨"LoadKey", 0xF00A, 0xF0FF⟩, ⟨"SetDT", 0xF015, 0xF0FF⟩, ⟨"SetST", 0xF018, 0xF0FF⟩,
   ⟨"AddIdx", 0xF01E, 0xF0FF⟩, ⟨"LoadSprite", 0xF029, 0xF0FF⟩, ⟨"LoadBCD", 0xF033, 0xF0FF⟩,
   ⟨"StoreRegs", 0xF055, 0xF0FF⟩, ⟨"ReadRegs", 0xF065, 0xF0FF⟩]

/-- The first row whose `(word AND mask) = match`; a word that matches none is UnknownOpcode (R105). -/
def firstRow (w : Word) : Option OpcodeRow := opcodeTable.find? fun r => w &&& r.mask == r.pattern

/-- The name of a form in the opcode table (R97, R102). -/
def Instr.mnemonic : Instr → String
  | .clear .. => "Clear"
  | .ret .. => "Return"
  | .sys .. => "SYS"
  | .jump .. => "Jump"
  | .call .. => "Call"
  | .skipEqI .. => "SkipEqI"
  | .skipNeqI .. => "SkipNeqI"
  | .skipEq .. => "SkipEq"
  | .loadI .. => "LoadI"
  | .addI .. => "AddI"
  | .loadR .. => "LoadR"
  | .or .. => "Or"
  | .and .. => "And"
  | .xor .. => "Xor"
  | .add .. => "Add"
  | .sub .. => "Sub"
  | .shiftR .. => "ShiftR"
  | .subN .. => "SubN"
  | .shiftL .. => "ShiftL"
  | .skipNeq .. => "SkipNeq"
  | .loadIdx .. => "LoadIdx"
  | .jumpAddV0 .. => "JumpAddV0"
  | .rand .. => "Rand"
  | .draw .. => "Draw"
  | .skipEqKey .. => "SkipEqKey"
  | .skipNeqKey .. => "SkipNeqKey"
  | .loadFromDT .. => "LoadFromDT"
  | .loadKey .. => "LoadKey"
  | .setDT .. => "SetDT"
  | .setST .. => "SetST"
  | .addIdx .. => "AddIdx"
  | .loadSprite .. => "LoadSprite"
  | .loadBCD .. => "LoadBCD"
  | .storeRegs .. => "StoreRegs"
  | .readRegs .. => "ReadRegs"

/-- A word whose parts are a 4-bit family and a 12-bit address: format NNN (R91). -/
def packNNN (op : BitVec 4) (nnn : Addr) : Word := op ++ nnn

/-- Format XKK (R91). -/
def packXKK (op : BitVec 4) (x : Reg) (kk : Byte) : Word := op ++ (BitVec.ofFin (w := 4) x ++ kk)

/-- Formats XY and XYN: the last nibble is the secondary code or the row count (R91). -/
def packXYN (op : BitVec 4) (x y : Reg) (n : Nibble) : Word := op ++ (BitVec.ofFin (w := 4) x ++ (BitVec.ofFin (w := 4) y ++ n))

/-- The word of an instruction, by the patterns of R97. Bits the decoder does not examine are written 0, as R98 advises. -/
def encode : Instr → Word
  | .clear => 0x00E0
  | .ret => 0x00EE
  | .sys nnn => packNNN 0x0 nnn
  | .jump nnn => packNNN 0x1 nnn
  | .call nnn => packNNN 0x2 nnn
  | .skipEqI x kk => packXKK 0x3 x kk
  | .skipNeqI x kk => packXKK 0x4 x kk
  | .skipEq x y => packXYN 0x5 x y 0x0
  | .loadI x kk => packXKK 0x6 x kk
  | .addI x kk => packXKK 0x7 x kk
  | .loadR x y => packXYN 0x8 x y 0x0
  | .or x y => packXYN 0x8 x y 0x1
  | .and x y => packXYN 0x8 x y 0x2
  | .xor x y => packXYN 0x8 x y 0x3
  | .add x y => packXYN 0x8 x y 0x4
  | .sub x y => packXYN 0x8 x y 0x5
  | .shiftR x => packXYN 0x8 x 0 0x6
  | .subN x y => packXYN 0x8 x y 0x7
  | .shiftL x => packXYN 0x8 x 0 0xE
  | .skipNeq x y => packXYN 0x9 x y 0x0
  | .loadIdx nnn => packNNN 0xA nnn
  | .jumpAddV0 nnn => packNNN 0xB nnn
  | .rand x kk => packXKK 0xC x kk
  | .draw x y n => packXYN 0xD x y n
  | .skipEqKey x => packXKK 0xE x 0x9E
  | .skipNeqKey x => packXKK 0xE x 0xA1
  | .loadFromDT x => packXKK 0xF x 0x07
  | .loadKey x => packXKK 0xF x 0x0A
  | .setDT x => packXKK 0xF x 0x15
  | .setST x => packXKK 0xF x 0x18
  | .addIdx x => packXKK 0xF x 0x1E
  | .loadSprite x => packXKK 0xF x 0x29
  | .loadBCD x => packXKK 0xF x 0x33
  | .storeRegs x => packXKK 0xF x 0x55
  | .readRegs x => packXKK 0xF x 0x65

/-- The two bytes of a word as they lie in memory, the high byte at the lower address (R67, R90). -/
def bytesOfWord (w : Word) : List Byte := [w.extractLsb' 8 8, w.extractLsb' 0 8]

/-- The two bytes of an instruction. -/
def encodeBytes (i : Instr) : List Byte := bytesOfWord (encode i)

/-- The low `nbits` bits of `w` as one instruction word, every bit above them 0. -/
def tableWord (nbits w : Nat) : Word := BitVec.ofNat 16 (w % 2 ^ nbits)

/-- The instruction the decoder reads from the word numbered as spec/opcode_table.json numbers it: bit 0 is the least significant bit
of the one 16-bit word, which lies in memory high byte first (R67, R105). -/
def decodeTableWord (nbits w : Nat) : Option Instr :=
  match decodeBytes (bytesOfWord (tableWord nbits w)) with
  | .ok (i, _) => some i
  | .error _ => none

end Sys2Proof
end

