-- ==== Sys2Proof/Config.lean ====
section
/-! DEFINITION. What this hardware fixes (spec/00_scope.md R6) and what it leaves free: the four inputs the environment supplies to
every cycle (spec/10_state.md R33 to R36). A free input is a constant with no body, applied to the number of the cycle, so that
no proof can know its value. -/

namespace Sys2Proof

/-- MEM_SIZE, bytes of memory (R6, R60). -/
def Config.memSize : Nat := 4096

/-- PROG_BASE, the load address and the reset value of `pc` (R6). -/
def Config.progBase : Nat := 0x200

/-- PROG_MAX, the largest program (R6, R282). -/
def Config.progMax : Nat := 3584

/-- STACK_DEPTH (R6, R27). -/
def Config.stackDepth : Nat := 16

/-- The bytes of one font glyph (R66). -/
def Config.glyphLen : Nat := 5

/-- FREE VALUE (log entry 1). `in.ticks` of a cycle: how many 60 Hz pulses are pending, any natural number (R33, U9). -/
opaque Config.ticks : Nat → Nat

/-- FREE VALUE (log entry 1). `in.keys` of a cycle: whether a key is down (R34, U10). -/
opaque Config.keyDown : Nat → KeyCode → Bool

/-- FREE VALUE (log entry 1). `in.last_key` of a cycle: the latched key code, or none (R35, U10). -/
opaque Config.lastKey : Nat → Option KeyCode

/-- FREE VALUE (log entry 1). `in.rnd` of a cycle: any byte, under no law (R36, U8). -/
opaque Config.rnd : Nat → Byte

end Sys2Proof
end

