-- ==== Sys2Proof/Machine/State.lean ====
section
/-! DEFINITION. All the state of the machine as plain data (spec/10_state.md), the reasons a step or a load can stop, and the state
after reset (R39). -/

namespace Sys2Proof.Machine

/-- Why a host operation stops. No instruction and no cycle answers a fault: the three fatal errors of the spec are described whole
(R125, R243) and are next states whose `fault` register is set (log entry 6). -/
inductive Fault where
  /-- Raised by `load` alone, for a program of more than 3584 bytes: the load is rejected and execution never starts (R245, R282).
  Safe: the spec's own error. -/
  | programTooLarge
  deriving DecidableEq, Repr

/-- Why an operation has no meaning. -/
inductive Refusal where
  /-- For an instruction without a meaning yet, answered by an arm of `exec` alone; no arm does so. Safe. -/
  | notModelled (mnemonic : String)
  /-- Raised by `load` alone: a second load, or a load after the first cycle, has no meaning (R281). Safe. -/
  | loadOutOfOrder
  deriving DecidableEq, Repr

/-- The value of the fault register: which fatal error, if any, stopped the machine (R31). -/
inductive FatalError where
  | none
  | stackOverflow
  | stackUnderflow
  | outOfBoundsMemoryAccess
  deriving DecidableEq, Repr

/-- The inputs of one cycle (R33 to R36). -/
structure Inputs where
  /-- `in.ticks`: how many 60 Hz pulses are pending (R33). -/
  ticks : Nat
  /-- `in.keys[0..15]`: which keys are down (R34). -/
  keys : Vector Bool 16
  /-- `in.last_key`: the latched key code (R35). -/
  lastKey : Option KeyCode
  /-- `in.rnd`: the random byte (R36). -/
  rnd : Byte
  deriving DecidableEq, Repr

/-- No pulse, all keys up, nothing latched, random byte 0. -/
def Inputs.idle : Inputs := { ticks := 0, keys := Vector.replicate 16 false, lastKey := none, rnd := 0 }

/-- One record of a `present` event: a pixel and its new value (R204). -/
structure PixelDiff where
  col : Col
  row : Row
  on : Bool
  deriving DecidableEq, Repr

/-- What the display sink is told in a cycle (R37, R204). -/
inductive DisplayEvent where
  | clear
  | present (diffs : List PixelDiff)
  deriving DecidableEq, Repr

/-- Where the host is in the sequence of its operations: reset, at most one load, then cycles (R281). -/
inductive Lifecycle where
  | constructed
  | loaded
  | running
  deriving DecidableEq, Repr

/-- The frame buffer, `fb[r][c]`: 32 rows of 64 pixels, true is on (R29, R200). -/
abbrev FrameBuffer := Vector (Vector Bool 64) 32

/-- Every pixel off. -/
def FrameBuffer.off : FrameBuffer := Vector.replicate 32 (Vector.replicate 64 false)

/-- The bytes of `mem` that differ from their reset contents, by rising address (R30; the form is `Memory.wf` in Memory.lean). -/
abbrev Memory := List Host.Cell

/-- The machine's state: first the core's own (R32), then the model's fields for the inputs and outputs of a cycle (R33 to R37) and
for the host's sequence of operations (R281). -/
structure State where
  /-- The general registers V0 to VF (R20). -/
  V : Vector Byte 16
  /-- The program counter (R23). -/
  pc : Word
  /-- The index register (R26). -/
  I : Word
  /-- The stack pointer: the number of entries in use, 0 to 16 (R27). -/
  sp : Fin 17
  /-- The 16 stack entries (R27). -/
  stack : Vector Word 16
  /-- The delay timer (R28). -/
  dt : Byte
  /-- The sound timer (R28). -/
  st : Byte
  /-- The frame buffer (R29). -/
  fb : FrameBuffer
  /-- The memory (R30). -/
  mem : Memory
  /-- The fault register (R31). -/
  fault : FatalError
  /-- The model's own: the inputs of the cycle in progress, sampled once at its start (R129, log entry 3). -/
  inp : Inputs
  /-- The model's own: inputs already chosen for coming cycles, the next cycle's first (log entry 2). -/
  script : List Inputs
  /-- The model's own: how many cycles have sampled inputs, the index of the free input values (log entry 1). -/
  cycleNo : Nat
  /-- The output `out.display` of the last cycle (R37, log entry 4). -/
  display : Option DisplayEvent
  /-- The output `out.decode_fail` of the last cycle (R37, log entry 4). -/
  decodeFail : Bool
  /-- The model's own: where the host is in its sequence of operations (R281, log entry 5). -/
  life : Lifecycle
  deriving DecidableEq, Repr

/-- The machine after reset (R39, R280). The inputs and outputs have no reset value in the spec (R39); the values here are DESIGN
CHOICE (log entries 1 to 5). -/
def State.reset : State where
  V := Vector.replicate 16 0
  pc := 0x0200
  I := 0
  sp := 0
  stack := Vector.replicate 16 0
  dt := 0
  st := 0
  fb := FrameBuffer.off
  mem := []
  fault := .none
  inp := Inputs.idle
  script := []
  cycleNo := 0
  display := none
  decodeFail := false
  life := .constructed

end Sys2Proof.Machine
end

