-- ==== Sys2Proof/Machine/Memory.lean ====
section
/-! DEFINITION. The memory as data: what a byte nothing has written reads as, reading and writing one byte, and the canonical form
(spec/20_memory.md R60 to R66). The range check of an access is in Ops.lean. -/

namespace Sys2Proof.Machine

/-- The 80 bytes of the built-in font from address 0x000 upward, one glyph a line (R66). -/
def fontTable : List Byte :=
  [0xF0, 0x90, 0x90, 0x90, 0xF0,
   0x20, 0x60, 0x20, 0x20, 0x70,
   0xF0, 0x10, 0xF0, 0x80, 0xF0,
   0xF0, 0x10, 0xF0, 0x10, 0xF0,
   0x90, 0x90, 0xF0, 0x10, 0x10,
   0xF0, 0x80, 0xF0, 0x10, 0xF0,
   0xF0, 0x80, 0xF0, 0x90, 0xF0,
   0xF0, 0x10, 0x20, 0x40, 0x40] ++
  [0xF0, 0x90, 0xF0, 0x90, 0xF0,
   0xF0, 0x90, 0xF0, 0x10, 0xF0,
   0xF0, 0x90, 0xF0, 0x90, 0x90,
   0xE0, 0x90, 0xE0, 0x90, 0xE0,
   0xF0, 0x80, 0x80, 0x80, 0xF0,
   0xE0, 0x90, 0x90, 0x90, 0xE0,
   0xF0, 0x80, 0xF0, 0x80, 0xF0,
   0xF0, 0x80, 0xF0, 0x80, 0x80]

/-- The contents of a byte after reset: the font below 0x050, 0 above (R39, R65, R66). -/
def Memory.initial (a : Nat) : Byte := fontTable.getD a 0

/-- The byte at `a`: the listed one, or the reset contents (R62). -/
def Memory.read : Memory → Nat → Byte
  | [], a => Memory.initial a
  | (b, v) :: m, a => if a = b then v else Memory.read m a

/-- The list without the byte at `a`. -/
def Memory.erase (m : Memory) (a : Nat) : Memory := m.filter fun c => c.1 != a

/-- The list with the byte at `a` in its place by rising address. -/
def Memory.insert : Memory → Nat → Byte → Memory
  | [], a, v => [(a, v)]
  | (b, w) :: m, a, v => if a < b then (a, v) :: (b, w) :: m else (b, w) :: Memory.insert m a v

/-- The byte at `a` becomes `v`, every other byte stays (R63); a byte at its reset contents is not listed. -/
def Memory.write (m : Memory) (a : Nat) (v : Byte) : Memory :=
  if v = Memory.initial a then m.erase a else (m.erase a).insert a v

/-- Addresses from `lo` on strictly rise and are below 4096, and no cell equals what an unlisted byte reads as. -/
def Memory.wfFrom : Nat → Memory → Bool
  | _, [] => true
  | lo, (b, v) :: m => decide (lo ≤ b) && decide (b < Config.memSize) && v != Memory.initial b && Memory.wfFrom (b + 1) m

/-- The canonical form of the memory: equal memories are equal lists. -/
def Memory.wf (m : Memory) : Bool := Memory.wfFrom 0 m

end Sys2Proof.Machine
end

