-- ==== Sys2Proof/Machine/Ops.lean ====
section
/-! DEFINITION. The named operations over the state: its one-field updates, memory accesses with their range check (R62, R63), the
stack (R27), the program counter (R24), the start of a cycle (R121, R129), the fetch (R122), the fatal error (R125, R243) and the
program load (R282). -/

namespace Sys2Proof.Machine

-- Registers and one-field updates.

/-- `V[r]` (R9). -/
def State.getV (s : State) (r : Reg) : Byte := s.V[r]

/-- `V[r] <- b` (R9). -/
def State.setV (s : State) (r : Reg) (b : Byte) : State := { s with V := s.V.set r b }

/-- `V[k]` receives the `k`-th byte of the block for every byte it has; the registers above keep their value (R185). -/
def State.setRegs (s : State) (bs : List Byte) : State :=
  { s with V := Vector.ofFn fun k => bs.getD k.val (s.getV k) }

/-- `pc <- target` (R9). -/
def State.setPc (s : State) (w : Word) : State := { s with pc := w }

/-- `I <- w` (R26). -/
def State.setI (s : State) (w : Word) : State := { s with I := w }

/-- `sp <- n` (R27). -/
def State.setSp (s : State) (n : Fin 17) : State := { s with sp := n }

/-- `stack[k] <- w` (R27). -/
def State.setStackEntry (s : State) (k : Fin 16) (w : Word) : State := { s with stack := s.stack.set k w }

/-- `dt <- b` (R28). -/
def State.setDt (s : State) (b : Byte) : State := { s with dt := b }

/-- `st <- b` (R28). -/
def State.setSt (s : State) (b : Byte) : State := { s with st := b }

/-- `fb` as a whole. -/
def State.setFb (s : State) (f : FrameBuffer) : State := { s with fb := f }

/-- `mem` as a whole. -/
def State.setMem (s : State) (m : Memory) : State := { s with mem := m }

/-- `fault <- e` (R31). -/
def State.setFault (s : State) (e : FatalError) : State := { s with fault := e }

/-- `out.display` (R37). -/
def State.setDisplay (s : State) (e : Option DisplayEvent) : State := { s with display := e }

/-- `out.decode_fail` (R37). -/
def State.setDecodeFail (s : State) (b : Bool) : State := { s with decodeFail := b }

/-- Where the host is in its sequence of operations (R281). -/
def State.setLife (s : State) (l : Lifecycle) : State := { s with life := l }

-- The fault register and taking a fatal error.

/-- The numeric code of the fault register (R31). -/
def FatalError.code : FatalError → Nat
  | .none => 0
  | .stackOverflow => 1
  | .stackUnderflow => 2
  | .outOfBoundsMemoryAccess => 3

/-- The outputs of a cycle that has none: no display event, no decode failure (R37). -/
def State.quiet (s : State) : State := (s.setDisplay none).setDecodeFail false

/-- `raise E`: only the fault register changes and the cycle has no output; `pc` still addresses the failing instruction and the
timers stay as the drain left them (R125, R243; that nothing else changes is D13, log entry 15). There is no handler and no return
(R248). -/
def raise (e : FatalError) (s : State) : State := s.quiet.setFault e

/-- What an instruction that may raise `e` answers: the state it computed, or, where it computed none because an error condition
holds, the state after `raise e` (R125). Always a next state. -/
def State.orRaise (s : State) (e : FatalError) (o : Option State) : Host.Outcome State Fault Refusal := .next (o.getD (raise e s))

/-- The machine has stopped for good (R128, R248). -/
def State.halted (s : State) : Bool := s.fault != .none

-- The program counter.

/-- The default action: `pc <- pc + 2` (R24; exact in every cycle that fetched, R25). -/
def State.advance (s : State) : State := s.setPc (s.pc + 2)

/-- A conditional skip: `pc + 4` if the predicate holds, else `pc + 2` (R24). -/
def State.skipIf (s : State) (b : Bool) : State := s.setPc (if b then s.pc + 4 else s.pc + 2)

-- Memory accesses.

/-- `MemRead(addr, 1)`; none where it raises OutOfBoundsMemoryAccess (R62). -/
def State.memRead (s : State) (a : Nat) : Option Byte := if a < Config.memSize then some (s.mem.read a) else none

/-- `MemWrite(addr, 1, v)`; none where it raises OutOfBoundsMemoryAccess (R63). -/
def State.memWrite (s : State) (a : Nat) (v : Byte) : Option State :=
  if a < Config.memSize then some (s.setMem (s.mem.write a v)) else none

/-- The `n` bytes from `a` upward, none if any of them is out of range (R64, R70, R71). -/
def State.loadBlock (s : State) : Nat → Nat → Option (List Byte)
  | _, 0 => some []
  | a, n + 1 =>
    match s.memRead a, s.loadBlock (a + 1) n with
    | some b, some bs => some (b :: bs)
    | _, _ => none

/-- The bytes stored from `a` upward in ascending order, none if any of them is out of range: the caller then keeps the state it had,
so no byte is stored (R64, R70, R71). -/
def State.storeBlock (s : State) : Nat → List Byte → Option State
  | _, [] => some s
  | a, b :: bs =>
    match s.memWrite a b with
    | some s' => s'.storeBlock (a + 1) bs
    | none => none

-- The call stack.

/-- Push: none at sp = 16 (StackOverflow); else the entry at sp is written and sp grows (R27, D4, log entry 26). -/
def State.push (s : State) (w : Word) : Option State :=
  if h : s.sp.val < Config.stackDepth then
    some ((s.setStackEntry ⟨s.sp.val, h⟩ w).setSp ⟨s.sp.val + 1, Nat.succ_lt_succ h⟩)
  else none

/-- Pop: none at sp = 0 (StackUnderflow); else sp shrinks and the entry at the new sp is the result; it keeps its value (R27, D4, log
entry 26). -/
def State.pop (s : State) : Option (Word × State) :=
  match s.sp with
  | ⟨0, _⟩ => none
  | ⟨k + 1, h⟩ => some (s.stack[k]'(Nat.lt_of_succ_lt_succ h), s.setSp ⟨k, Nat.lt_of_succ_lt h⟩)

-- The start of a cycle.

/-- The inputs of the coming cycle: the next scripted ones, or the free values of this cycle (R33 to R36; log entries 1 and 2). -/
def State.nextInputs (s : State) : Inputs :=
  match s.script with
  | i :: _ => i
  | [] =>
    { ticks := Config.ticks s.cycleNo
      keys := Vector.ofFn (Config.keyDown s.cycleNo)
      lastKey := Config.lastKey s.cycleNo
      rnd := Config.rnd s.cycleNo }

/-- The inputs are sampled, once, and the next cycle will sample the next ones (R129); the host has begun to call `cycle` (R281). -/
def State.sample (s : State) : State :=
  { s with inp := s.nextInputs, script := s.script.tail, cycleNo := s.cycleNo + 1, life := .running }

/-- A timer that receives `k` pulses: `max(0, t - k)` on mathematical integers (R121). A timer at 0 stays 0 whatever `k` is. -/
def drainTimer (t : Byte) (k : Nat) : Byte := if t = 0 then 0 else BitVec.ofNat 8 (t.toNat - k)

/-- Phase 0: both timers receive the pulses of this cycle (R121). -/
def State.drain (s : State) : State :=
  (s.setDt (drainTimer s.dt s.inp.ticks)).setSt (drainTimer s.st s.inp.ticks)

/-- What a cycle does before the fetch: the outputs of the last cycle are gone, the inputs are sampled, the ticks are drained (R120,
R129; the place of the drain is D15, log entry 17). -/
def State.beginCycle (s : State) : State := s.quiet.sample.drain

-- The fetch.

/-- What phases 1 and 2 find at `pc`. -/
inductive Fetched where
  /-- Byte `pc` or `pc + 1` does not exist (R122). -/
  | outOfBounds
  /-- The word is in the UnknownOpcode set (R99). -/
  | unknown
  /-- The decoded form. -/
  | instr (i : Instr)
  deriving DecidableEq, Repr

/-- Phases 1 and 2: the bytes at `pc` and `pc + 1`, decoded, high byte first (R67, R122, R123). -/
def State.fetchDecode (s : State) : Fetched :=
  match s.loadBlock s.pc.toNat 2 with
  | none => .outOfBounds
  | some bs =>
    match decodeBytes bs with
    | .ok (i, _) => .instr i
    | .error _ => .unknown

-- The host's operations.

/-- `load(bytes)`: refused unless it is the first operation after reset (R281, D22); ProgramTooLarge above 3584 bytes; else the bytes
stand from 0x200 upward and nothing else changes (R282). -/
def load (bytes : List Byte) (s : State) : Host.Outcome State Fault Refusal :=
  if s.life != .constructed then .refused .loadOutOfOrder
  else if Config.progMax < bytes.length then .fault .programTooLarge
  else
    match s.storeBlock Config.progBase bytes with
    | some s' => .next (s'.setLife .loaded)
    | none => .fault .programTooLarge

/-- The bytes at `pc` and `pc + 1` become those of the word; where they do not exist nothing changes. -/
def State.placeWord (s : State) (w : Word) : State := (s.storeBlock s.pc.toNat (bytesOfWord w)).getD s

end Sys2Proof.Machine
end

