-- ==== Sys2Proof/Machine/Operands.lean ====
section
/-! DEFINITION. The operand forms: an address operand, the I-relative address (R71), the registers of a block, a key code in a register
(R223), the decimal digits of LoadBCD (R183) and the pixel coordinates of Draw (R202). -/

namespace Sys2Proof.Machine

/-- `zext_16(nnn)`, the address operand (R92). -/
def addrWord (nnn : Addr) : Word := nnn.setWidth 16

/-- `zext_16(b)` (R9). -/
def zext16 (b : Byte) : Word := b.setWidth 16

/-- The I-relative base address, an unbounded integer (R71, D12). -/
def State.base (s : State) : Nat := s.I.toNat

/-- How many registers the block V[0] to V[x] has (R70, R184). -/
def blockLen (x : Reg) : Nat := x.val + 1

/-- The bytes of V[0] to V[x], ascending (R184). -/
def State.regBlock (s : State) (x : Reg) : List Byte := s.V.toList.take (blockLen x)

/-- `(k <= 15) and in.keys[k]`: whether the key whose code is the byte `k` is down; a code of 16 or more is no key (R223, D17,
log entry 19). -/
def State.keyDown (s : State) (k : Byte) : Bool := if h : k.toNat < 16 then s.inp.keys[k.toNat] else false

/-- `zext_8(c)` of a key code (R225). -/
def keyByte (c : KeyCode) : Byte := BitVec.ofNat 8 c.val

/-- The hundreds, tens and ones digit of a byte (R183). -/
def bcdDigits (v : Byte) : List Byte :=
  [BitVec.ofNat 8 (v.toNat / 100), BitVec.ofNat 8 (v.toNat / 10 % 10), BitVec.ofNat 8 (v.toNat % 10)]

/-- `(cx + col) mod 64` on unbounded integers (R202, D6, log entry 12). -/
def wrapCol (c : Nat) : Col := Fin.ofNat 64 c

/-- `(cy + row) mod 32` on unbounded integers (R202, D6, log entry 12). -/
def wrapRow (r : Nat) : Row := Fin.ofNat 32 r

/-- Bit `7 - col` of a sprite byte: the most significant bit is column 0 (R202). -/
def spriteBit (b : Byte) (col : Nat) : Bool := b.getLsbD (7 - col)

end Sys2Proof.Machine
end

