-- ==== Sys2Proof/Machine/Flags.lean ====
section
/-! DEFINITION. The values VF receives as a flag (spec/10_state.md R22): carry, not-borrow, the bit shifted out, collision. -/

namespace Sys2Proof.Machine

/-- A flag as a byte: 1 or 0 (R22). -/
def flagByte (b : Bool) : Byte := if b then 1 else 0

/-- The carry of Add: the 9-bit sum exceeds 255 (R166). -/
def carryFlag (a b : Byte) : Byte := flagByte (decide (255 < a.toNat + b.toNat))

/-- The not-borrow of `a - b`: 1 when `a >= b`, so also when they are equal (R167, R168). -/
def notBorrowFlag (a b : Byte) : Byte := flagByte (decide (b.toNat ≤ a.toNat))

/-- The bit ShiftR shifts out: bit 0 (R169). -/
def shiftROut (a : Byte) : Byte := flagByte (a.getLsbD 0)

/-- The bit ShiftL shifts out: bit 7 (R170). -/
def shiftLOut (a : Byte) : Byte := flagByte (a.getLsbD 7)

/-- `VF <- b` (R22). -/
def State.setFlag (s : State) (b : Byte) : State := s.setV vf b

end Sys2Proof.Machine
end

