-- ==== Sys2Proof/Machine/Alu.lean ====
section
/-! DEFINITION. Register loads, arithmetic, logic, shifts and random (spec/42_alu.md). All arithmetic is modulo 256 (R172); operands
are read before anything is written (R10, D5, log entry 11). -/

namespace Sys2Proof.Machine

/-- `V[x] <- r`, then `VF <- f`, then `pc + 2`: with x = 15 the flag remains (R166 to R168, R173). -/
def State.resultThenFlag (s : State) (x : Reg) (r f : Byte) : State := ((s.setV x r).setFlag f).advance

/-- `VF <- f`, then `V[x] <- r`, then `pc + 2`: with x = 15 the result remains (R169, R170, R173). -/
def State.flagThenResult (s : State) (x : Reg) (f r : Byte) : State := ((s.setFlag f).setV x r).advance

/-- LoadI(x, kk) (R160). -/
def execLoadI (x : Reg) (kk : Byte) (s : State) : Host.Outcome State Fault Refusal := .next (s.setV x kk).advance

/-- AddI(x, kk): wraps, VF is no flag here (R161). -/
def execAddI (x : Reg) (kk : Byte) (s : State) : Host.Outcome State Fault Refusal := .next (s.setV x (s.getV x + kk)).advance

/-- LoadR(x, y) (R162). -/
def execLoadR (x y : Reg) (s : State) : Host.Outcome State Fault Refusal := .next (s.setV x (s.getV y)).advance

/-- Or(x, y): VF is not written as a flag (R163). -/
def execOr (x y : Reg) (s : State) : Host.Outcome State Fault Refusal := .next (s.setV x (s.getV x ||| s.getV y)).advance

/-- And(x, y): VF is not written as a flag (R164). -/
def execAnd (x y : Reg) (s : State) : Host.Outcome State Fault Refusal := .next (s.setV x (s.getV x &&& s.getV y)).advance

/-- Xor(x, y): VF is not written as a flag (R165). -/
def execXor (x y : Reg) (s : State) : Host.Outcome State Fault Refusal := .next (s.setV x (s.getV x ^^^ s.getV y)).advance

/-- Add(x, y): the sum modulo 256, then the carry (R166). -/
def execAdd (x y : Reg) (s : State) : Host.Outcome State Fault Refusal :=
  .next (s.resultThenFlag x (s.getV x + s.getV y) (carryFlag (s.getV x) (s.getV y)))

/-- Sub(x, y): the difference modulo 256, then the not-borrow of the values before it (R167). -/
def execSub (x y : Reg) (s : State) : Host.Outcome State Fault Refusal :=
  .next (s.resultThenFlag x (s.getV x - s.getV y) (notBorrowFlag (s.getV x) (s.getV y)))

/-- SubN(x, y): `V[y] - V[x]` to V[x], then its not-borrow (R168). -/
def execSubN (x y : Reg) (s : State) : Host.Outcome State Fault Refusal :=
  .next (s.resultThenFlag x (s.getV y - s.getV x) (notBorrowFlag (s.getV y) (s.getV x)))

/-- ShiftR(x): the flag first, then the logical shift of the old V[x] (R169). -/
def execShiftR (x : Reg) (s : State) : Host.Outcome State Fault Refusal :=
  .next (s.flagThenResult x (shiftROut (s.getV x)) (s.getV x >>> 1))

/-- ShiftL(x): the flag first, then the shift of the old V[x] modulo 256 (R170). -/
def execShiftL (x : Reg) (s : State) : Host.Outcome State Fault Refusal :=
  .next (s.flagThenResult x (shiftLOut (s.getV x)) (s.getV x <<< 1))

/-- Rand(x, kk): the random byte of this cycle, a free input, masked (R171, R36). -/
def execRand (x : Reg) (kk : Byte) (s : State) : Host.Outcome State Fault Refusal := .next (s.setV x (s.inp.rnd &&& kk)).advance

end Sys2Proof.Machine
end

