-- ==== Sys2Proof/Machine/Control.lean ====
section
/-! DEFINITION. Control transfer (spec/41_control_flow.md): Return, Jump, Call, JumpAddV0 and the skips on registers. -/

namespace Sys2Proof.Machine

/-- Return: StackUnderflow at sp = 0; else `pc` is the popped value, with no increment (R140). -/
def execRet (s : State) : Host.Outcome State Fault Refusal :=
  s.orRaise .stackUnderflow (s.pop.map fun p => p.2.setPc p.1)

/-- Jump(nnn): any target, no increment (R141). -/
def execJump (nnn : Addr) (s : State) : Host.Outcome State Fault Refusal := .next (s.setPc (addrWord nnn))

/-- Call(nnn): StackOverflow at sp = 16; else the address after the Call is pushed (C2, D3, log entry 10) and `pc` is the target, with
no increment (R142). -/
def execCall (nnn : Addr) (s : State) : Host.Outcome State Fault Refusal :=
  s.orRaise .stackOverflow ((s.push (s.pc + 2)).map fun t => t.setPc (addrWord nnn))

/-- JumpAddV0(nnn): the 16-bit sum, not reduced to 12 bits (R143). -/
def execJumpAddV0 (nnn : Addr) (s : State) : Host.Outcome State Fault Refusal :=
  .next (s.setPc (addrWord nnn + zext16 (s.getV v0)))

/-- SkipEqI(x, kk) (R144). -/
def execSkipEqI (x : Reg) (kk : Byte) (s : State) : Host.Outcome State Fault Refusal := .next (s.skipIf (s.getV x == kk))

/-- SkipNeqI(x, kk) (R145). -/
def execSkipNeqI (x : Reg) (kk : Byte) (s : State) : Host.Outcome State Fault Refusal := .next (s.skipIf (s.getV x != kk))

/-- SkipEq(x, y) (R146). -/
def execSkipEq (x y : Reg) (s : State) : Host.Outcome State Fault Refusal := .next (s.skipIf (s.getV x == s.getV y))

/-- SkipNeq(x, y) (R147). -/
def execSkipNeq (x y : Reg) (s : State) : Host.Outcome State Fault Refusal := .next (s.skipIf (s.getV x != s.getV y))

end Sys2Proof.Machine
end

