-- ==== Sys2Proof/Machine/Display.lean ====
section
/-! DEFINITION. The frame buffer, Clear and Draw (spec/44_display.md). -/

namespace Sys2Proof.Machine

/-- `fb[r][c]` (R29). -/
def FrameBuffer.pixel (fb : FrameBuffer) (r : Row) (c : Col) : Bool := fb[r][c]

/-- `fb[r][c] <- b` (R29). -/
def FrameBuffer.setPixel (fb : FrameBuffer) (r : Row) (c : Col) (b : Bool) : FrameBuffer := fb.set r (fb[r].set c b)

/-- What the loops of Draw carry along: the frame buffer, the collision so far and the changed pixels, oldest first (R202). -/
structure Canvas where
  fb : FrameBuffer
  collision : Bool
  diffs : List PixelDiff
  deriving DecidableEq, Repr

/-- One sprite bit at one pixel: XOR; a collision where both are 1; a record where the bit is 1 (R202, R204). -/
def plot (cv : Canvas) (r : Row) (c : Col) (bit : Bool) : Canvas :=
  { fb := cv.fb.setPixel r c (cv.fb.pixel r c ^^ bit)
    collision := cv.collision || (cv.fb.pixel r c && bit)
    diffs := if bit then cv.diffs ++ [{ col := c, row := r, on := cv.fb.pixel r c ^^ bit }] else cv.diffs }

/-- The columns `col` to 7 of one sprite row: `k` columns are left (R202). -/
def plotCols (cx : Nat) (r : Row) (b : Byte) : Nat → Canvas → Canvas
  | 0, cv => cv
  | k + 1, cv => plotCols cx r b k (plot cv r (wrapCol (cx + (7 - k))) (spriteBit b (7 - k)))

/-- One row of the sprite: columns 0 to 7 in order (R202). -/
def plotRow (cx : Nat) (r : Row) (b : Byte) (cv : Canvas) : Canvas := plotCols cx r b 8 cv

/-- The rows of the sprite in order, the first at `cy` (R202). -/
def plotRows (cx : Nat) : Nat → List Byte → Canvas → Canvas
  | _, [], cv => cv
  | cy, b :: bs, cv => plotRows cx (cy + 1) bs (plotRow cx (wrapRow cy) b cv)

/-- The whole sprite on a frame buffer, with no collision and no record before it (R202). -/
def compose (fb : FrameBuffer) (cx cy : Nat) (bs : List Byte) : Canvas :=
  plotRows cx cy bs { fb := fb, collision := false, diffs := [] }

/-- What Draw leaves once its sprite bytes are read: the composed frame buffer, VF as the collision flag, the `present` event, pc + 2. The
coordinates are the register values before VF is written (R202). -/
def State.drawn (s : State) (x y : Reg) (bs : List Byte) : State :=
  let cv := compose s.fb (s.getV x).toNat (s.getV y).toNat bs
  (((s.setFb cv.fb).setFlag (flagByte cv.collision)).setDisplay (some (.present cv.diffs))).advance

/-- Clear: every pixel off, the `clear` event (R201). -/
def execClear (s : State) : Host.Outcome State Fault Refusal :=
  .next ((s.setFb FrameBuffer.off).setDisplay (some .clear)).advance

/-- Draw(x, y, n): the sprite of `n` bytes from I upward; n = 0 reads nothing and cannot raise (R202; D7, log entry 13). -/
def execDraw (x y : Reg) (n : Nibble) (s : State) : Host.Outcome State Fault Refusal :=
  s.orRaise .outOfBoundsMemoryAccess ((s.loadBlock s.base n.toNat).map (s.drawn x y))

end Sys2Proof.Machine
end

