-- ==== Sys2Proof/Machine/IndexMemory.lean ====
section
/-! DEFINITION. The index register and the memory instructions (spec/43_index_memory.md). No load or store changes `I`, and an
instruction whose block is not wholly in range does nothing but raise (R64, R186). -/

namespace Sys2Proof.Machine

/-- LoadIdx(nnn) (R180). -/
def execLoadIdx (nnn : Addr) (s : State) : Host.Outcome State Fault Refusal := .next (s.setI (addrWord nnn)).advance

/-- AddIdx(x): wraps at 16 bits, VF untouched (R181). -/
def execAddIdx (x : Reg) (s : State) : Host.Outcome State Fault Refusal := .next (s.setI (s.I + zext16 (s.getV x))).advance

/-- LoadSprite(x): five times the whole byte, not reduced to its low nibble (R182, D20, log entry 20). -/
def execLoadSprite (x : Reg) (s : State) : Host.Outcome State Fault Refusal :=
  .next (s.setI (zext16 (s.getV x) * BitVec.ofNat 16 Config.glyphLen)).advance

/-- LoadBCD(x): stores the three decimal digits of V[x] at I, I+1, I+2 (R183). -/
def execLoadBCD (x : Reg) (s : State) : Host.Outcome State Fault Refusal :=
  s.orRaise .outOfBoundsMemoryAccess ((s.storeBlock s.base (bcdDigits (s.getV x))).map State.advance)

/-- StoreRegs(x): stores V[0] to V[x] from I upward (R184). -/
def execStoreRegs (x : Reg) (s : State) : Host.Outcome State Fault Refusal :=
  s.orRaise .outOfBoundsMemoryAccess ((s.storeBlock s.base (s.regBlock x)).map State.advance)

/-- ReadRegs(x): loads V[0] to V[x] from I upward (R185). -/
def execReadRegs (x : Reg) (s : State) : Host.Outcome State Fault Refusal :=
  s.orRaise .outOfBoundsMemoryAccess ((s.loadBlock s.base (blockLen x)).map fun bs => (s.setRegs bs).advance)

end Sys2Proof.Machine
end

