-- ==== Sys2Proof/Machine/System.lean ====
section
/-! DEFINITION. The two no-ops of spec/40_cycle.md: SYS (R126) and the value UnknownOpcode (R127). -/

namespace Sys2Proof.Machine

/-- SYS(nnn): a no-op whatever `nnn` is; not a decode failure (R126). -/
def execSys (_nnn : Addr) (s : State) : Host.Outcome State Fault Refusal := .next s.advance

/-- UnknownOpcode: a no-op cycle that reports the decode failure on `out.decode_fail`; never fatal (R127, R244). -/
def execUnknownOpcode (s : State) : Host.Outcome State Fault Refusal := .next (s.setDecodeFail true).advance

end Sys2Proof.Machine
end

