-- ==== Sys2Proof/Machine/TimersKeys.lean ====
section
/-! DEFINITION. The timer and key instructions (spec/45_timers_keys.md). -/

namespace Sys2Proof.Machine

/-- LoadFromDT(x): the delay timer as this cycle's drain left it (R220). -/
def execLoadFromDT (x : Reg) (s : State) : Host.Outcome State Fault Refusal := .next (s.setV x s.dt).advance

/-- SetDT(x) (R221). -/
def execSetDT (x : Reg) (s : State) : Host.Outcome State Fault Refusal := .next (s.setDt (s.getV x)).advance

/-- SetST(x) (R222). -/
def execSetST (x : Reg) (s : State) : Host.Outcome State Fault Refusal := .next (s.setSt (s.getV x)).advance

/-- SkipEqKey(x): skip if the key whose code is V[x] is down (R223). -/
def execSkipEqKey (x : Reg) (s : State) : Host.Outcome State Fault Refusal := .next (s.skipIf (s.keyDown (s.getV x)))

/-- SkipNeqKey(x): skip if it is not (R224). -/
def execSkipNeqKey (x : Reg) (s : State) : Host.Outcome State Fault Refusal := .next (s.skipIf (!s.keyDown (s.getV x)))

/-- LoadKey(x): the latched key code, or nothing changes and the same word is presented again in the next cycle (R225; the latch is D18,
log entry 18). -/
def execLoadKey (x : Reg) (s : State) : Host.Outcome State Fault Refusal :=
  .next (match s.inp.lastKey with
    | some c => (s.setV x (keyByte c)).advance
    | none => s)

end Sys2Proof.Machine
end

