-- ==== Sys2Proof/Machine/Dispatch.lean ====
section
/-! DEFINITION. Phases 3 and 4 of a cycle (spec/40_cycle.md R120, R124): one arm per instruction form, each one call of its meaning. -/

namespace Sys2Proof.Machine

def exec (i : Instr) (s : State) : Host.Outcome State Fault Refusal :=
  match i with
  | .clear => Sys2Proof.Machine.execClear s
  | .ret => Sys2Proof.Machine.execRet s
  | .sys nnn => Sys2Proof.Machine.execSys nnn s
  | .jump nnn => Sys2Proof.Machine.execJump nnn s
  | .call nnn => Sys2Proof.Machine.execCall nnn s
  | .skipEqI x kk => Sys2Proof.Machine.execSkipEqI x kk s
  | .skipNeqI x kk => Sys2Proof.Machine.execSkipNeqI x kk s
  | .skipEq x y => Sys2Proof.Machine.execSkipEq x y s
  | .loadI x kk => Sys2Proof.Machine.execLoadI x kk s
  | .addI x kk => Sys2Proof.Machine.execAddI x kk s
  | .loadR x y => Sys2Proof.Machine.execLoadR x y s
  | .or x y => Sys2Proof.Machine.execOr x y s
  | .and x y => Sys2Proof.Machine.execAnd x y s
  | .xor x y => Sys2Proof.Machine.execXor x y s
  | .add x y => Sys2Proof.Machine.execAdd x y s
  | .sub x y => Sys2Proof.Machine.execSub x y s
  | .shiftR x => Sys2Proof.Machine.execShiftR x s
  | .subN x y => Sys2Proof.Machine.execSubN x y s
  | .shiftL x => Sys2Proof.Machine.execShiftL x s
  | .skipNeq x y => Sys2Proof.Machine.execSkipNeq x y s
  | .loadIdx nnn => Sys2Proof.Machine.execLoadIdx nnn s
  | .jumpAddV0 nnn => Sys2Proof.Machine.execJumpAddV0 nnn s
  | .rand x kk => Sys2Proof.Machine.execRand x kk s
  | .draw x y n => Sys2Proof.Machine.execDraw x y n s
  | .skipEqKey x => Sys2Proof.Machine.execSkipEqKey x s
  | .skipNeqKey x => Sys2Proof.Machine.execSkipNeqKey x s
  | .loadFromDT x => Sys2Proof.Machine.execLoadFromDT x s
  | .loadKey x => Sys2Proof.Machine.execLoadKey x s
  | .setDT x => Sys2Proof.Machine.execSetDT x s
  | .setST x => Sys2Proof.Machine.execSetST x s
  | .addIdx x => Sys2Proof.Machine.execAddIdx x s
  | .loadSprite x => Sys2Proof.Machine.execLoadSprite x s
  | .loadBCD x => Sys2Proof.Machine.execLoadBCD x s
  | .storeRegs x => Sys2Proof.Machine.execStoreRegs x s
  | .readRegs x => Sys2Proof.Machine.execReadRegs x s

end Sys2Proof.Machine
end

