-- ==== Sys2Proof/Machine/Cycle.lean ====
section
/-! DEFINITION. The phases of one cycle put together (spec/40_cycle.md R120 to R129). -/

namespace Sys2Proof.Machine

/-- A cycle of a machine that has not faulted, after its start: fetch and decode, and run what was found: the form's meaning, the no-op
of UnknownOpcode, or the fatal error of the fetch (R120 to R127). -/
def runFetched (s : State) : Host.Outcome State Fault Refusal :=
  match s.fetchDecode with
  | .instr i => exec i s
  | .unknown => execUnknownOpcode s
  | .outOfBounds => .next (raise .outOfBoundsMemoryAccess s)

/-- `cycle(in)`: a faulted machine changes nothing and outputs nothing (R128; log entries 16 and 30). Otherwise the cycle begins and
runs what it fetches (R120). -/
def cycle (s : State) : Host.Outcome State Fault Refusal :=
  if s.halted then .next s.quiet else runFetched s.beginCycle

end Sys2Proof.Machine
end

