-- ==== Sys2Proof/Machine/Step.lean ====
section
/-! DEFINITION. The step of the machine is one cycle (spec/40_cycle.md R120), with the inputs of the cycle taken from the state. -/

namespace Sys2Proof.Machine

/-- One `cycle(in)` (R120, R129). -/
def step (s : State) : Host.Outcome State Fault Refusal := cycle s

/-- `s` with the instruction word of `w` at `pc` and `pc + 1`, high byte first: `pc` is where the next step fetches. It stands for the
program load (log entry 7). -/
def State.withFetchWord (s : State) (nbits w : Nat) : State := s.placeWord (tableWord nbits w)

end Sys2Proof.Machine
end

