-- ==== Sys2Proof/Safety.lean ====
section
/-! DEFINITION. The terms the claims are stated in: what counts as a safe state, which piece of state a transition leaves unchanged, the
invariants of a step, and the spec's own summary tables (R24, R40, R241) and closed forms (R202, R204), written from the tables and
not from the meanings. -/

namespace Sys2Proof.Machine

-- Safe states and runs.

/-- No fatal error has happened since reset (R31). -/
def State.safe (s : State) : Prop := s.fault = .none

/-- `k` cycles from `s` end in a state that no fatal error has stopped. -/
def SafeFor (k : Nat) (s : State) : Prop := ∃ t : State, Host.Core.run core k s = .next t ∧ t.safe

-- What a transition from `s` to `t` leaves unchanged.

/-- A piece of the state but the program counter, which every instruction may change (R24), and the fault register. -/
inductive Piece where
  | regs
  | index
  | stack
  | delay
  | sound
  | frameBuffer
  | memory
  | display
  | decodeFail
  deriving DecidableEq, Repr

/-- The piece is the same in both states: each register, each stack entry, each pixel, each byte of memory. -/
def Piece.same (s t : State) : Piece → Prop
  | .regs => ∀ r, t.getV r = s.getV r
  | .index => t.I = s.I
  | .stack => t.sp = s.sp ∧ t.stack = s.stack
  | .delay => t.dt = s.dt
  | .sound => t.st = s.st
  | .frameBuffer => t.fb = s.fb
  | .memory => ∀ a, t.memRead a = s.memRead a
  | .display => t.display = s.display
  | .decodeFail => t.decodeFail = s.decodeFail

/-- The inputs of the cycle and the host's side are the same. -/
def SameHost (s t : State) : Prop := t.inp = s.inp ∧ t.script = s.script ∧ t.cycleNo = s.cycleNo ∧ t.life = s.life

/-- Every piece but the written ones is unchanged, no fatal error was raised, and the inputs and the host's side are the same. -/
def Frame (written : List Piece) (s t : State) : Prop :=
  (∀ p, p ∉ written → p.same s t) ∧ t.fault = s.fault ∧ SameHost s t

/-- `V`, `pc`, `I`, `sp`, `stack`, `fb` and `mem` are the same: the list of R243. -/
def SameCore (s t : State) : Prop :=
  t.V = s.V ∧ t.pc = s.pc ∧ t.I = s.I ∧ t.sp = s.sp ∧ t.stack = s.stack ∧ t.fb = s.fb ∧ t.mem = s.mem

/-- The cycle has no output (R37). -/
def NoOutput (t : State) : Prop := t.display = none ∧ t.decodeFail = false

/-- What `raise e` leaves of the state the instruction found: `fault` is `e`, all else is the same, no output (R243). -/
def RaisedFrom (e : FatalError) (s t : State) : Prop :=
  t.fault = e ∧ SameCore s t ∧ t.dt = s.dt ∧ t.st = s.st ∧ SameHost s t ∧ NoOutput t

/-- One register becomes `v`, every other register and every other piece is unchanged, and pc + 2. -/
def WritesOnly (x : Reg) (v : Byte) (s t : State) : Prop :=
  t.getV x = v ∧ (∀ r, r ≠ x → t.getV r = s.getV r) ∧ t.pc = s.pc + 2 ∧ Frame [.regs] s t

-- Invariants of a step.

/-- The memory has its canonical form: every listed address is below 4096, they rise, and no byte is listed at its reset contents. -/
def State.memCanonical (s : State) : Prop := s.mem.wf = true

/-- The range of `pc` and of the stack entries in use: `pc` is at most 0x10FE (R25), an entry at most 4096 (R140). -/
def State.pcBounded (s : State) : Prop := s.pc.toNat ≤ 0x10FE ∧ ∀ k : Fin 16, k.val < s.sp.val → s.stack[k].toNat ≤ 4096

-- The spec's tables.

/-- Which fatal error an instruction raises in a state, by the conditions of R241. -/
def fatalCause (i : Instr) (s : State) : Option FatalError :=
  match i with
  | .call _ => if s.sp.val = 16 then some .stackOverflow else none
  | .ret => if s.sp.val = 0 then some .stackUnderflow else none
  | .draw _ _ n => if 1 ≤ n.toNat ∧ 4096 ≤ s.I.toNat + n.toNat - 1 then some .outOfBoundsMemoryAccess else none
  | .loadBCD _ => if 4096 ≤ s.I.toNat + 2 then some .outOfBoundsMemoryAccess else none
  | .storeRegs x => if 4096 ≤ s.I.toNat + x.val then some .outOfBoundsMemoryAccess else none
  | .readRegs x => if 4096 ≤ s.I.toNat + x.val then some .outOfBoundsMemoryAccess else none
  | .clear | .sys _ | .jump _ | .skipEqI _ _ | .skipNeqI _ _ | .skipEq _ _ | .loadI _ _ | .addI _ _ | .loadR _ _
  | .or _ _ | .and _ _ | .xor _ _ | .add _ _ | .sub _ _ | .shiftR _ | .subN _ _ | .shiftL _ | .skipNeq _ _ | .loadIdx _
  | .jumpAddV0 _ | .rand _ _ | .skipEqKey _ | .skipNeqKey _ | .loadFromDT _ | .loadKey _ | .setDT _ | .setST _
  | .addIdx _ | .loadSprite _ => none

/-- Whether the key of the code in V[x] is down: a code of 16 or more is not (R223). -/
def KeyIsDown (s : State) (x : Reg) : Prop := ∃ k : KeyCode, (s.getV x).toNat = k.val ∧ s.inp.keys[k] = true

/-- `pc` after an instruction that raises nothing, by the table of R24. -/
def PcAfter (i : Instr) (s t : State) : Prop :=
  match i with
  | .jump nnn => t.pc.toNat = nnn.toNat
  | .call nnn => t.pc.toNat = nnn.toNat
  | .ret => ∃ k : Fin 16, s.sp.val = k.val + 1 ∧ t.pc = s.stack[k]
  | .jumpAddV0 nnn => t.pc.toNat = nnn.toNat + (s.getV 0).toNat
  | .skipEqI x kk => t.pc = if s.getV x = kk then s.pc + 4 else s.pc + 2
  | .skipNeqI x kk => t.pc = if s.getV x = kk then s.pc + 2 else s.pc + 4
  | .skipEq x y => t.pc = if s.getV x = s.getV y then s.pc + 4 else s.pc + 2
  | .skipNeq x y => t.pc = if s.getV x = s.getV y then s.pc + 2 else s.pc + 4
  | .skipEqKey x => (KeyIsDown s x → t.pc = s.pc + 4) ∧ (¬ KeyIsDown s x → t.pc = s.pc + 2)
  | .skipNeqKey x => (KeyIsDown s x → t.pc = s.pc + 2) ∧ (¬ KeyIsDown s x → t.pc = s.pc + 4)
  | .loadKey _ => t.pc = if s.inp.lastKey = none then s.pc else s.pc + 2
  | .clear | .sys _ | .loadI _ _ | .addI _ _ | .loadR _ _ | .or _ _ | .and _ _ | .xor _ _ | .add _ _ | .sub _ _ | .shiftR _
  | .subN _ _ | .shiftL _ | .loadIdx _ | .rand _ _ | .draw _ _ _ | .loadFromDT _ | .setDT _ | .setST _ | .addIdx _
  | .loadSprite _ | .loadBCD _ | .storeRegs _ | .readRegs _ => t.pc = s.pc + 2

/-- The pieces an instruction writes besides `pc`: the last column of R40, and the display event of Clear and Draw (R204). -/
def writtenPieces : Instr → List Piece
  | .clear => [.frameBuffer, .display]
  | .ret | .call _ => [.stack]
  | .sys _ | .jump _ | .jumpAddV0 _ | .skipEqI _ _ | .skipNeqI _ _ | .skipEq _ _ | .skipNeq _ _ | .skipEqKey _
  | .skipNeqKey _ => []
  | .loadI _ _ | .addI _ _ | .loadR _ _ | .or _ _ | .and _ _ | .xor _ _ | .add _ _ | .sub _ _ | .subN _ _ | .shiftR _
  | .shiftL _ | .rand _ _ | .loadFromDT _ | .loadKey _ | .readRegs _ => [.regs]
  | .loadIdx _ | .addIdx _ | .loadSprite _ => [.index]
  | .draw _ _ _ => [.regs, .frameBuffer, .display]
  | .setDT _ => [.delay]
  | .setST _ => [.sound]
  | .loadBCD _ | .storeRegs _ => [.memory]

/-- The registers an instruction may write (R40): its destination, VF where it writes the flag, V[0] to V[x] for ReadRegs. -/
def mayWriteReg (i : Instr) (r : Reg) : Bool :=
  match i with
  | .loadI x _ | .addI x _ | .loadR x _ | .or x _ | .and x _ | .xor x _ | .rand x _ | .loadFromDT x | .loadKey x => r = x
  | .add x _ | .sub x _ | .subN x _ | .shiftR x | .shiftL x => r = x || r = 15
  | .draw _ _ _ => r = 15
  | .readRegs x => r ≤ x
  | .clear | .ret | .sys _ | .jump _ | .call _ | .skipEqI _ _ | .skipNeqI _ _ | .skipEq _ _ | .skipNeq _ _ | .loadIdx _
  | .jumpAddV0 _ | .skipEqKey _ | .skipNeqKey _ | .setDT _ | .setST _ | .addIdx _ | .loadSprite _ | .loadBCD _
  | .storeRegs _ => false

/-- How many bytes an instruction stores from address I upward (R186). -/
def storedLen : Instr → Nat
  | .loadBCD _ => 3
  | .storeRegs x => x.val + 1
  | .clear | .ret | .sys _ | .jump _ | .call _ | .skipEqI _ _ | .skipNeqI _ _ | .skipEq _ _ | .loadI _ _ | .addI _ _
  | .loadR _ _ | .or _ _ | .and _ _ | .xor _ _ | .add _ _ | .sub _ _ | .shiftR _ | .subN _ _ | .shiftL _ | .skipNeq _ _
  | .loadIdx _ | .jumpAddV0 _ | .rand _ _ | .draw _ _ _ | .skipEqKey _ | .skipNeqKey _ | .loadFromDT _ | .loadKey _
  | .setDT _ | .setST _ | .addIdx _ | .loadSprite _ | .readRegs _ => 0

-- The sprite of a Draw, in closed form.

/-- The pixels under a sprite bit that is 1, rows ascending and then columns ascending, at column `(V[x] + col) mod 64` and row
`(V[y] + row) mod 32`; the bit of column `col` is bit `7 - col` of the byte at `I + row` (R202, R204). -/
def litPixels (s : State) (x y : Reg) (n : Nibble) : List (Row × Col) :=
  (List.range n.toNat).flatMap fun row =>
    ((List.range 8).filter fun col => (s.mem.read (s.I.toNat + row)).getLsbD (7 - col)).map fun col =>
      (Fin.ofNat 32 ((s.getV y).toNat + row), Fin.ofNat 64 ((s.getV x).toNat + col))

/-- What a display sink does to its own copy of the frame buffer with one record (R204). -/
def applyDiff (fb : FrameBuffer) (d : PixelDiff) : FrameBuffer := fb.setPixel d.row d.col d.on

/-- What a display sink does to its own copy of the frame buffer with the event of a cycle (R204). -/
def applyEvent (fb : FrameBuffer) : Option DisplayEvent → FrameBuffer
  | none => fb
  | some .clear => FrameBuffer.off
  | some (.present ds) => ds.foldl applyDiff fb

/-- The sink's copy after `k` cycles of the machine, starting from `fb`; it stops where the machine does. -/
def mirror : Nat → State → FrameBuffer → FrameBuffer
  | 0, _, fb => fb
  | k + 1, s, fb =>
    match step s with
    | .next t => mirror k t (applyEvent fb t.display)
    | .fault _ => fb
    | .refused _ => fb

end Sys2Proof.Machine
end

