-- ==== Sys2Proof/Certificates/Slice0/Obligations.lean ====
section
/-! DEFINITION. The statements for the provers, from the numbered rules of spec/. A docstring names the rule a statement formalises, and
says where a clause rests on a decision or an inference the spec marks as its own. -/

open Sys2Proof Sys2Proof.Machine

-- Encoding and decoding (spec/30_encoding.md).

/-- A few words written out from the patterns of R97, one for each format and each second dispatch, decode to the form they stand for
(the numbers are the spec's decision D1). -/
def Obligations.SampleWordsDecode : Prop :=
  decode 0x00E0 = .ok .clear ∧ decode 0x00EE = .ok .ret ∧ decode 0x0123 = .ok (.sys 0x123) ∧
  decode 0x2FFF = .ok (.call 0xFFF) ∧ decode 0x3A42 = .ok (.skipEqI 10 0x42) ∧ decode 0x512F = .ok (.skipEq 1 2) ∧
  decode 0x8AB4 = .ok (.add 10 11) ∧ decode 0x8AB6 = .ok (.shiftR 10) ∧ decode 0x8AB8 = .error .unknownOpcode ∧
  decode 0x9CD0 = .ok (.skipNeq 12 13) ∧ decode 0xA123 = .ok (.loadIdx 0x123) ∧ decode 0xC50F = .ok (.rand 5 0x0F) ∧
  decode 0xD12F = .ok (.draw 1 2 15) ∧ decode 0xE3A1 = .ok (.skipNeqKey 3) ∧ decode 0xF465 = .ok (.readRegs 4)

/-- Decoding undoes encoding for every well-formed instruction, with every operand at every value, and takes exactly its two bytes (R90,
R97; the opcode numbers are the spec's decision D1). -/
def Obligations.DecodeInvertsEncode : Prop :=
  ∀ (i : Instr) (rest : List Byte), i.wellFormed = true → decodeBytes (encodeBytes i ++ rest) = .ok (i, rest)

/-- Encoding undoes decoding but for the bits the decoder does not examine, which are encoded as 0; what the decoder gives is well-formed
(R97; which bits are not examined is the spec's decision D2, R98). -/
def Obligations.EncodeInvertsDecode : Prop :=
  ∀ (w : Word) (i : Instr), decode w = .ok i → i.wellFormed = true ∧
    encode i = match i with
      | .skipEq _ _ => w &&& 0xFFF0
      | .shiftR _ | .shiftL _ => w &&& 0xFF0F
      | _ => w

/-- The decoder gives the form of the first row of the opcode table whose `(word AND mask) = match`, and UnknownOpcode where no row
matches (R97, R105; the numbers of the table are the spec's decision D1). -/
def Obligations.DecodeIsFirstMatch : Prop :=
  ∀ w : Word, match decode w with
    | .ok i => (firstRow w).map OpcodeRow.mnemonic = some i.mnemonic
    | .error e => e = .unknownOpcode ∧ firstRow w = none

/-- The UnknownOpcode set by the conditions of R99 (its secondary codes are the spec's decision D1). -/
def Obligations.UnknownOpcodeSet : Prop :=
  ∀ w : Word, decode w = .error .unknownOpcode ↔
    (w.toNat / 4096 = 8 ∧ w.toNat % 16 ∈ [0x8, 0x9, 0xA, 0xB, 0xC, 0xD, 0xF]) ∨
    (w.toNat / 4096 = 9 ∧ w.toNat % 16 ≠ 0) ∨
    (w.toNat / 4096 = 0xE ∧ w.toNat % 256 ∉ [0x9E, 0xA1]) ∨
    (w.toNat / 4096 = 0xF ∧ w.toNat % 256 ∉ [0x07, 0x0A, 0x15, 0x18, 0x1E, 0x29, 0x33, 0x55, 0x65])

/-- Family 0: the two literal words, and every other word of the family is SYS with its low 12 bits, a no-op: nothing but `pc` changes
(R94). -/
def Obligations.FamilyZeroDecodes : Prop :=
  decode 0x00E0 = .ok .clear ∧ decode 0x00EE = .ok .ret ∧
  (∀ w : Word, w.toNat < 0x1000 → w ≠ 0x00E0 → w ≠ 0x00EE → decode w = .ok (.sys (w.setWidth 12))) ∧
  ∀ (nnn : Addr) (s : State), ∃ t, exec (.sys nnn) s = .next t ∧ Frame [] s t

/-- The operand fields of a word by the masks and shifts of R92. -/
def Obligations.OperandExtraction : Prop :=
  ∀ w : Word, (nnnOf w).toNat = (w &&& 0x0FFF).toNat ∧ (xOf w).val = ((w >>> 8) &&& 0xF).toNat ∧
    (yOf w).val = ((w >>> 4) &&& 0xF).toNat ∧ (kkOf w).toNat = (w &&& 0xFF).toNat ∧ (nOf w).toNat = (w &&& 0xF).toNat

-- Reset and load (spec/10_state.md, spec/70_reset_and_hazards.md).

/-- After reset: every register, `I`, `sp`, the stack, the timers and the pixels are 0, `pc` is 0x200, `fault` is None, glyph `g` of the font is the
5 bytes at `5 * g` (R66), and memory from 0x050 to 0xFFF is 0 (R39). -/
def Obligations.ResetState : Prop :=
  (∀ r, State.reset.getV r = 0) ∧ State.reset.pc = 0x0200 ∧ State.reset.I = 0 ∧ State.reset.sp.val = 0 ∧
  (∀ k : Fin 16, State.reset.stack[k] = 0) ∧ State.reset.dt = 0 ∧ State.reset.st = 0 ∧
  (∀ r c, State.reset.fb.pixel r c = false) ∧ State.reset.fault = .none ∧
  (∀ g : Nat, ∀ glyph : List Byte,
    [[0xF0, 0x90, 0x90, 0x90, 0xF0], [0x20, 0x60, 0x20, 0x20, 0x70], [0xF0, 0x10, 0xF0, 0x80, 0xF0], [0xF0, 0x10, 0xF0, 0x10, 0xF0],
     [0x90, 0x90, 0xF0, 0x10, 0x10], [0xF0, 0x80, 0xF0, 0x10, 0xF0], [0xF0, 0x80, 0xF0, 0x90, 0xF0], [0xF0, 0x10, 0x20, 0x40, 0x40],
     [0xF0, 0x90, 0xF0, 0x90, 0xF0], [0xF0, 0x90, 0xF0, 0x10, 0xF0], [0xF0, 0x90, 0xF0, 0x90, 0x90], [0xE0, 0x90, 0xE0, 0x90, 0xE0],
     [0xF0, 0x80, 0x80, 0x80, 0xF0], [0xE0, 0x90, 0x90, 0x90, 0xE0], [0xF0, 0x80, 0xF0, 0x80, 0xF0], [0xF0, 0x80, 0xF0, 0x80, 0x80]][g]? =
      some glyph → (List.range 5).map (fun k => State.reset.memRead (5 * g + k)) = glyph.map some) ∧
  (∀ a, 0x050 ≤ a → a < 4096 → State.reset.memRead a = some 0)

/-- A load that is in order: up to 3584 bytes stand from 0x200 upward and no other piece of the core's state changes; more are rejected
with ProgramTooLarge, which leaves no new state (R282). -/
def Obligations.ProgramLoad : Prop :=
  ∀ (s : State) (bytes : List Byte), s.life = .constructed →
    (bytes.length ≤ 3584 → ∃ t, load bytes s = .next t ∧
      (∀ a, a < 4096 → t.memRead a = if 0x200 ≤ a ∧ a < 0x200 + bytes.length then some (bytes.getD (a - 0x200) 0) else s.memRead a) ∧
      t.V = s.V ∧ t.pc = s.pc ∧ t.I = s.I ∧ t.sp = s.sp ∧ t.stack = s.stack ∧ t.dt = s.dt ∧ t.st = s.st ∧ t.fb = s.fb ∧
      t.fault = s.fault) ∧
    (3584 < bytes.length → load bytes s = .fault .programTooLarge)

/-- A second load, and a load after a cycle of a machine that had not faulted, have no meaning: the model refuses them (the spec's decision
D22 on what R281 leaves without a meaning). -/
def Obligations.LoadOutOfOrderIsRefused : Prop :=
  ∀ (s t : State) (first bytes : List Byte),
    (load first s = .next t → load bytes t = .refused .loadOutOfOrder) ∧
    (s.fault = .none → step s = .next t → load bytes t = .refused .loadOutOfOrder)

/-- A machine that is cycled with no program loaded, from reset and whatever the inputs are: after `k` cycles, `k` up to 1792, `pc` is
`0x200 + 2 * k`, all else of the core is as at reset and there is no output; each of these cycles finds SYS(0); the cycle after them
finds no word, faults with OutOfBoundsMemoryAccess at `pc = 0x1000` and changes nothing else (the spec's inference R283, from R122 and
R126, log entry 31; the spec's decisions D11, log entry 22, D13, log entry 15, and D16, log entry 24). -/
def Obligations.EmptyMachineRunsOffMemory : Prop :=
  (∀ k : Nat, k ≤ 1792 → ∃ t : State, Host.Core.run core k State.reset = .next t ∧ t.safe ∧ NoOutput t ∧
    t.pc.toNat = 0x200 + 2 * k ∧ SameCore State.reset (t.setPc State.reset.pc) ∧ t.dt = 0 ∧ t.st = 0 ∧
    (k < 1792 → t.beginCycle.fetchDecode = .instr (.sys 0))) ∧
  (∃ t : State, Host.Core.run core 1793 State.reset = .next t ∧ t.fault = .outOfBoundsMemoryAccess ∧ NoOutput t ∧
    t.pc = 0x1000 ∧ SameCore State.reset (t.setPc State.reset.pc) ∧ t.dt = 0 ∧ t.st = 0)

-- The cycle (spec/40_cycle.md) and the errors (spec/60_exceptions.md).

/-- A cycle of a machine that has not faulted, whose two bytes at `pc` exist and make, high byte first, the word of an instruction, is
that instruction run on the state after the start of the cycle (R120). That state, `beginCycle`, is: no output, the inputs sampled, the
timers drained, and every other piece of the core as before. That the instruction runs on the drained timers is the spec's decision D15
(log entry 17). The clauses on the model's own fields are the model's choices: where the inputs come from, `nextInputs` and `cycleNo` (log
entry 1), `script` (log entry 2), `inp` (log entry 3), the outputs held in the state (log entry 4), `life` (log entry 5). -/
def Obligations.StepRunsTheDecodedInstruction : Prop :=
  ∀ (s : State) (hi lo : Byte) (i : Instr), s.fault = .none → s.memRead s.pc.toNat = some hi →
    s.memRead (s.pc.toNat + 1) = some lo → decode (hi ++ lo) = .ok i →
    step s = exec i s.beginCycle ∧
    SameCore s s.beginCycle ∧ s.beginCycle.fault = s.fault ∧ NoOutput s.beginCycle ∧
    s.beginCycle.inp = s.nextInputs ∧ s.beginCycle.script = s.script.tail ∧ s.beginCycle.cycleNo = s.cycleNo + 1 ∧
    s.beginCycle.life = .running ∧
    s.beginCycle.dt = drainTimer s.dt s.nextInputs.ticks ∧ s.beginCycle.st = drainTimer s.st s.nextInputs.ticks

/-- The tick drain: `k` pulses are `k` times one pulse, `max(0, t - k)`; both timers receive the same pulses at the start of the cycle of
a machine that has not faulted, whatever word follows, and what the fetch found runs on the drained timers; a faulted machine drains
nothing (R121; the place of the drain in the cycle is the spec's decision D15). -/
def Obligations.TickDrain : Prop :=
  (∀ (t : Byte) (k : Nat), (drainTimer t k).toNat = t.toNat - k ∧
    drainTimer t k = (fun u : Byte => if 0 < u.toNat then u - 1 else u)^[k] t) ∧
  (∀ s : State, s.beginCycle.dt.toNat = s.dt.toNat - s.nextInputs.ticks ∧ s.beginCycle.st.toNat = s.st.toNat - s.nextInputs.ticks) ∧
  (∀ s : State, s.fault = .none → step s = match s.beginCycle.fetchDecode with
    | .instr i => exec i s.beginCycle
    | .unknown => execUnknownOpcode s.beginCycle
    | .outOfBounds => .next (raise .outOfBoundsMemoryAccess s.beginCycle)) ∧
  (∀ s t : State, s.fault ≠ .none → step s = .next t → t.dt = s.dt ∧ t.st = s.st)

/-- The word a fetch decodes is `(hi << 8) | lo` of the bytes at `pc` and `pc + 1`, at any `pc`, odd or even (R67; that an odd `pc` raises
nothing is the spec's decision D10, R69). -/
def Obligations.FetchIsBigEndian : Prop :=
  ∀ (s : State) (hi lo : Byte) (w : Word), s.memRead s.pc.toNat = some hi → s.memRead (s.pc.toNat + 1) = some lo →
    w = (hi.setWidth 16 <<< 8) ||| lo.setWidth 16 →
    (∀ i, decode w = .ok i → s.fetchDecode = .instr i) ∧ (decode w = .error .unknownOpcode → s.fetchDecode = .unknown)

/-- A fetch that needs a byte at 4096 or beyond ends the cycle in OutOfBoundsMemoryAccess: `pc` stays, the timers are drained, all else is as
before (the spec's decisions D11 and D13; R122, R125). -/
def Obligations.FetchBeyondMemoryRaises : Prop :=
  ∀ s : State, s.fault = .none → 4096 ≤ s.pc.toNat + 1 →
    ∃ t, step s = .next t ∧ t.fault = .outOfBoundsMemoryAccess ∧ SameCore s t ∧ NoOutput t ∧
      t.dt.toNat = s.dt.toNat - s.nextInputs.ticks ∧ t.st.toNat = s.st.toNat - s.nextInputs.ticks

/-- DecodeFailure: a word in the UnknownOpcode set causes no stop; the cycle is a no-op with pc + 2 that reports `out.decode_fail`, and
records nothing else (R244; what the no-op does is the spec's decision D16). -/
def Obligations.DecodeFailureIsNoOp : Prop :=
  ∀ (s : State) (hi lo : Byte), s.fault = .none → s.memRead s.pc.toNat = some hi → s.memRead (s.pc.toNat + 1) = some lo →
    decode (hi ++ lo) = .error .unknownOpcode →
    ∃ t, step s = .next t ∧ t.pc = s.pc + 2 ∧ t.decodeFail = true ∧ t.display = none ∧ t.fault = .none ∧
      (∀ r, t.getV r = s.getV r) ∧ t.I = s.I ∧ t.sp = s.sp ∧ t.stack = s.stack ∧ t.fb = s.fb ∧ t.mem = s.mem ∧
      t.dt.toNat = s.dt.toNat - s.nextInputs.ticks ∧ t.st.toNat = s.st.toNat - s.nextInputs.ticks

/-- Every instruction raises exactly the fatal errors of R241 in exactly its conditions, and then only the fault register changes and there
is no output; otherwise it answers a next state and leaves the fault register (the fault register and its precision are the spec's
decisions D13 and D14; R243). -/
def Obligations.FatalErrorsExactly : Prop :=
  ∀ (i : Instr) (s : State),
    (∀ e, fatalCause i s = some e → ∃ t, exec i s = .next t ∧ RaisedFrom e s t) ∧
    (fatalCause i s = none → ∃ t, exec i s = .next t ∧ t.fault = s.fault)

/-- Errors are precise: a cycle that ends in a fatal error leaves `V`, `pc`, `I`, `sp`, `stack`, `fb` and `mem` as before the cycle, the
timers as the drain left them, and no output (the spec's decision D13; R125, R243). -/
def Obligations.FatalErrorsArePrecise : Prop :=
  ∀ s t : State, s.fault = .none → step s = .next t → t.fault ≠ .none →
    SameCore s t ∧ NoOutput t ∧
    t.dt.toNat = s.dt.toNat - s.nextInputs.ticks ∧ t.st.toNat = s.st.toNat - s.nextInputs.ticks

/-- A faulted machine does not run: any number of cycles leaves its core, its timers and `fault` as they are, with no output (the spec's
decision D14; R128). -/
def Obligations.FaultedMachineStaysStopped : Prop :=
  ∀ (k : Nat) (s : State), s.fault ≠ .none →
    ∃ t : State, Host.Core.run core k s = .next t ∧ SameCore s t ∧ t.dt = s.dt ∧ t.st = s.st ∧ t.fault = s.fault ∧
      (0 < k → NoOutput t)

/-- Every cycle completes, from every state: neither a step nor any number of steps ends in a host fault or a refusal ("all operations are
synchronous and total", R240). -/
def Obligations.EveryRunCompletes : Prop :=
  ∀ (k : Nat) (s : State), ∃ t : State, Host.Core.run core k s = .next t

-- The spec's tables over all 35 forms (R24, R40).

/-- Every instruction that raises nothing completes, with `pc` as the table of R24 has it (that JumpAddV0 gets no increment, and what Call
pushes, are inferences the spec marks). -/
def Obligations.ProgramCounterTable : Prop :=
  ∀ (i : Instr) (s : State), fatalCause i s = none → ∃ t, exec i s = .next t ∧ PcAfter i s t

/-- Every instruction that raises nothing changes only what the table of R40 lets it write: among the registers its destinations, among the
bytes of memory those stored from I upward, and whole pieces of the state not at all (the spec derives that table from its rules). -/
def Obligations.WrittenStateTable : Prop :=
  ∀ (i : Instr) (s t : State), fatalCause i s = none → exec i s = .next t →
    Frame (writtenPieces i) s t ∧
    (∀ r, mayWriteReg i r = false → t.getV r = s.getV r) ∧
    (∀ a, (a < s.I.toNat ∨ s.I.toNat + storedLen i ≤ a) → t.memRead a = s.memRead a)

/-- Only Rand reads the random byte, only LoadKey the latch, only the key skips the key states, and no instruction the tick count: two states
that differ in other inputs only take the same transition (R129; R34, R35, R36). -/
def Obligations.InputsReadOnlyWhereNamed : Prop :=
  ∀ (i : Instr) (s t : State) (inp : Inputs),
    (∀ x kk, i = .rand x kk → inp.rnd = s.inp.rnd) →
    (∀ x, i = .loadKey x → inp.lastKey = s.inp.lastKey) →
    (∀ x, i = .skipEqKey x ∨ i = .skipNeqKey x → inp.keys = s.inp.keys) →
    exec i s = .next t → exec i { s with inp := inp } = .next { t with inp := inp }

/-- The timers: a cycle changes `dt` by its drain alone unless the instruction at `pc` is SetDT, and `st` likewise unless it is SetST; both
end at 0 or above by construction; no instruction reads `st`: two states that differ in `st` alone take the same transition, and the same
but for `st` itself (R28; the place of the drain is the spec's decision D15, that there is no sound output D21). -/
def Obligations.TimersChangeOnlyByDrainOrSet : Prop :=
  (∀ s t : State, s.fault = .none → step s = .next t →
    ((∀ x, s.beginCycle.fetchDecode ≠ .instr (.setDT x)) → t.dt.toNat = s.dt.toNat - s.nextInputs.ticks) ∧
    ((∀ x, s.beginCycle.fetchDecode ≠ .instr (.setST x)) → t.st.toNat = s.st.toNat - s.nextInputs.ticks) ∧
    (∀ x, s.beginCycle.fetchDecode = .instr (.setDT x) → t.dt = s.getV x) ∧
    (∀ x, s.beginCycle.fetchDecode = .instr (.setST x) → t.st = s.getV x)) ∧
  (∀ (i : Instr) (s t : State) (b : Byte), exec i s = .next t →
    ∃ u, exec i { s with st := b } = .next u ∧ { u with st := t.st } = t)

-- Invariants that every step keeps.

/-- The memory keeps its canonical form (the model's representation of R30, log entry 25). -/
def Obligations.MemoryStaysCanonical : Prop :=
  ∀ s t : State, s.memCanonical → step s = .next t → t.memCanonical

/-- Two canonical memories with the same 4096 bytes are the same data (the model's representation of R30, log entry 25). -/
def Obligations.CanonicalMemoryIsUnique : Prop :=
  ∀ m n : Memory, m.wf = true → n.wf = true → (∀ a, a < 4096 → m.read a = n.read a) → m = n

/-- `pc` stays at most 0x10FE and every stack entry in use at most 4096, so the 16-bit `pc` never wraps (the spec's inference in R25,
log entry 31; R140). -/
def Obligations.ProgramCounterStaysBounded : Prop :=
  ∀ s t : State, s.pcBounded → step s = .next t → t.pcBounded

/-- The two invariants of the steps hold after reset, and after any load into a state where they hold: the canonical form of the memory,
which is the model's representation (log entry 25), and the bound of `pc` and of the stack entries in use, which is the spec's own
inference in R25 (log entry 31). -/
def Obligations.ResetMeetsTheInvariants : Prop :=
  State.reset.memCanonical ∧ State.reset.pcBounded ∧
  ∀ (s t : State) (bytes : List Byte), s.memCanonical → s.pcBounded → load bytes s = .next t → t.memCanonical ∧ t.pcBounded

-- Memory (spec/20_memory.md).

/-- MemRead and MemWrite of one byte: below 4096 the byte, and a write changes that byte and nothing else; at 4096 and above both raise,
which is the answer `none` of the access (R62, R63). -/
def Obligations.ByteAccess : Prop :=
  ∀ (s : State) (a : Nat) (v : Byte),
    (4096 ≤ a → s.memRead a = none ∧ s.memWrite a v = none) ∧
    (a < 4096 → s.memRead a = some (s.mem.read a) ∧ ∃ t, s.memWrite a v = some t ∧ t.memRead a = some v ∧
      (∀ k, k ≠ a → t.memRead k = s.memRead k) ∧ (∀ p, p ≠ Piece.memory → p.same s t) ∧ t.pc = s.pc ∧ t.fault = s.fault ∧
      SameHost s t)

/-- A store is seen by the next fetch: two neighbouring registers that StoreRegs stored are what a fetch at their address decodes (the spec's
decision D24; R75). -/
def Obligations.FetchSeesStores : Prop :=
  ∀ (s t : State) (x : Reg) (j : Nat) (hj : j + 1 ≤ x.val) (i : Instr), s.I.toNat + x.val < 4096 →
    exec (.storeRegs x) s = .next t →
    decode (s.getV ⟨j, by omega⟩ ++ s.getV ⟨j + 1, by omega⟩) = .ok i →
    (t.setPc (BitVec.ofNat 16 (s.I.toNat + j))).fetchDecode = .instr i

-- The two no-ops and control transfer (spec/40_cycle.md, spec/41_control_flow.md).

/-- SYS is a no-op with pc + 2, whatever `nnn` is, and no decode failure (the spec's decision D16; R126). -/
def Obligations.SysIsNoOp : Prop :=
  ∀ (nnn : Addr) (s : State), ∃ t, exec (.sys nnn) s = .next t ∧ t.pc = s.pc + 2 ∧ Frame [] s t

/-- Jump: `pc` is `nnn`, any `nnn`, and nothing else changes (R141). -/
def Obligations.JumpTakesTarget : Prop :=
  ∀ (nnn : Addr) (s : State), ∃ t, exec (.jump nnn) s = .next t ∧ t.pc.toNat = nnn.toNat ∧ Frame [] s t

/-- JumpAddV0: `pc` is `nnn + V[0]`, at most 0x10FE and not reduced to 12 bits (that no increment follows is an inference the spec marks in
R143). -/
def Obligations.JumpAddV0AddsWithoutReduction : Prop :=
  ∀ (nnn : Addr) (s : State), ∃ t, exec (.jumpAddV0 nnn) s = .next t ∧ t.pc.toNat = nnn.toNat + (s.getV 0).toNat ∧
    t.pc.toNat ≤ 0x10FE ∧ Frame [] s t

/-- Call: below depth 16 the address after the Call is pushed and `pc` is the target; at depth 16 StackOverflow and nothing else (that `pc + 2`
is pushed, and where, are the spec's decisions D3 and D4; R142, R27). -/
def Obligations.CallPushesReturnAddress : Prop :=
  ∀ (nnn : Addr) (s : State),
    (∀ k : Fin 16, s.sp.val = k.val → ∃ t, exec (.call nnn) s = .next t ∧ t.pc.toNat = nnn.toNat ∧ t.sp.val = k.val + 1 ∧
      t.stack[k] = s.pc + 2 ∧ (∀ j : Fin 16, j ≠ k → t.stack[j] = s.stack[j]) ∧ Frame [.stack] s t) ∧
    (s.sp.val = 16 → ∃ t, exec (.call nnn) s = .next t ∧ RaisedFrom .stackOverflow s t)

/-- Return: the popped entry is `pc`, with no increment, and keeps its value; on an empty stack StackUnderflow and nothing else (that the entry
is kept is the spec's decision D4; R140, R27). -/
def Obligations.ReturnPopsToPc : Prop :=
  ∀ s : State,
    (∀ k : Fin 16, s.sp.val = k.val + 1 → ∃ t, exec .ret s = .next t ∧ t.pc = s.stack[k] ∧ t.sp.val = k.val ∧
      t.stack = s.stack ∧ Frame [.stack] s t) ∧
    (s.sp.val = 0 → ∃ t, exec .ret s = .next t ∧ RaisedFrom .stackUnderflow s t)

/-- Call then Return, with anything between that leaves the stack and its pointer: `pc` is that of the Call plus 2 and the pointer is back at its
depth (the source's example S6 as C2 and D3 read it). -/
def Obligations.CallThenReturnResumes : Prop :=
  ∀ (nnn : Addr) (s t u : State), s.sp.val < 16 → exec (.call nnn) s = .next t → u.sp = t.sp → u.stack = t.stack →
    t.pc.toNat = nnn.toNat ∧ ∃ v, exec .ret u = .next v ∧ v.pc = s.pc + 2 ∧ v.sp = s.sp ∧ (∀ r, v.getV r = u.getV r)

/-- The skips on registers: pc + 4 if the predicate holds, else pc + 2; nothing else changes, VF is a register like any other (R144 to R147). -/
def Obligations.RegisterSkips : Prop :=
  ∀ (x y : Reg) (kk : Byte) (s : State),
    (∃ t, exec (.skipEqI x kk) s = .next t ∧ (s.getV x = kk → t.pc = s.pc + 4) ∧ (s.getV x ≠ kk → t.pc = s.pc + 2) ∧ Frame [] s t) ∧
    (∃ t, exec (.skipNeqI x kk) s = .next t ∧ (s.getV x ≠ kk → t.pc = s.pc + 4) ∧ (s.getV x = kk → t.pc = s.pc + 2) ∧ Frame [] s t) ∧
    (∃ t, exec (.skipEq x y) s = .next t ∧ (s.getV x = s.getV y → t.pc = s.pc + 4) ∧ (s.getV x ≠ s.getV y → t.pc = s.pc + 2) ∧
      Frame [] s t) ∧
    (∃ t, exec (.skipNeq x y) s = .next t ∧ (s.getV x ≠ s.getV y → t.pc = s.pc + 4) ∧ (s.getV x = s.getV y → t.pc = s.pc + 2) ∧
      Frame [] s t)

-- Registers (spec/42_alu.md).

/-- LoadI and AddI: the immediate, and the sum modulo 256; VF changes only as the destination (R160, R161). -/
def Obligations.ImmediateLoadAndAdd : Prop :=
  ∀ (x : Reg) (kk : Byte) (s : State),
    (∃ t, exec (.loadI x kk) s = .next t ∧ WritesOnly x kk s t) ∧
    (∃ t, exec (.addI x kk) s = .next t ∧ WritesOnly x (BitVec.ofNat 8 (((s.getV x).toNat + kk.toNat) % 256)) s t)

/-- Or, And, Xor bit by bit; VF changes only as the destination (R163, R164, R165). -/
def Obligations.LogicBitByBit : Prop :=
  ∀ (x y : Reg) (s : State), ∃ o a e : Byte,
    (∀ k : Fin 8, o[k] = ((s.getV x)[k] || (s.getV y)[k]) ∧ a[k] = ((s.getV x)[k] && (s.getV y)[k]) ∧
      e[k] = ((s.getV x)[k] != (s.getV y)[k])) ∧
    (∃ t, exec (.or x y) s = .next t ∧ WritesOnly x o s t) ∧ (∃ t, exec (.and x y) s = .next t ∧ WritesOnly x a s t) ∧
    (∃ t, exec (.xor x y) s = .next t ∧ WritesOnly x e s t)

/-- LoadR takes V[y] (the spec marks this reading of the row as its inference, R162). -/
def Obligations.LoadRegisterCopies : Prop :=
  ∀ (x y : Reg) (s : State), ∃ t, exec (.loadR x y) s = .next t ∧ WritesOnly x (s.getV y) s t

/-- Add, Sub and SubN with a destination other than VF: the result modulo 256 in V[x], the carry or not-borrow in VF, always 0 or 1, and nothing
else changes (R166 to R168; x = 15 is the statement FlagRegisterAsDestination). -/
def Obligations.ArithmeticWithFlag : Prop :=
  ∀ (x y : Reg) (s : State), x ≠ 15 → ∃ t u v,
    exec (.add x y) s = .next t ∧ exec (.sub x y) s = .next u ∧ exec (.subN x y) s = .next v ∧
    (t.getV x).toNat = ((s.getV x).toNat + (s.getV y).toNat) % 256 ∧
    (t.getV 15 = if (s.getV x).toNat + (s.getV y).toNat > 255 then 1 else 0) ∧
    (((u.getV x).toNat : Int) = ((s.getV x).toNat - (s.getV y).toNat : Int) % 256) ∧
    (u.getV 15 = if (s.getV x).toNat ≥ (s.getV y).toNat then 1 else 0) ∧
    (((v.getV x).toNat : Int) = ((s.getV y).toNat - (s.getV x).toNat : Int) % 256) ∧
    (v.getV 15 = if (s.getV y).toNat ≥ (s.getV x).toNat then 1 else 0) ∧
    (∀ q, q = t ∨ q = u ∨ q = v → q.pc = s.pc + 2 ∧ Frame [.regs] s q ∧ ∀ r, r ≠ x → r ≠ 15 → q.getV r = s.getV r)

/-- ShiftR and ShiftL with a destination other than VF: the shifted V[x], the bit shifted out in VF, and nothing else changes; V[y] is not read
(R169, R170; x = 15 is the statement FlagRegisterAsDestination). -/
def Obligations.ShiftsReportTheBitShiftedOut : Prop :=
  ∀ (x : Reg) (s : State), x ≠ 15 → ∃ t u,
    exec (.shiftR x) s = .next t ∧ exec (.shiftL x) s = .next u ∧
    (t.getV x).toNat = (s.getV x).toNat / 2 ∧ (t.getV 15).toNat = (s.getV x).toNat % 2 ∧
    (u.getV x).toNat = (s.getV x).toNat * 2 % 256 ∧ (u.getV 15).toNat = (s.getV x).toNat / 128 ∧
    (∀ q, q = t ∨ q = u → q.pc = s.pc + 2 ∧ Frame [.regs] s q ∧ ∀ r, r ≠ x → r ≠ 15 → q.getV r = s.getV r)

/-- The flag-writing instructions with x = 15, by the table of R173: after Add, Sub and SubN the flag remains, after the shifts the shifted value
(the spec's decision D5). -/
def Obligations.FlagRegisterAsDestination : Prop :=
  ∀ (y : Reg) (s : State) (f b : Nat), f = (s.getV 15).toNat → b = (s.getV y).toNat →
    (∃ t, exec (.add 15 y) s = .next t ∧ WritesOnly 15 (if f + b > 255 then 1 else 0) s t) ∧
    (∃ t, exec (.sub 15 y) s = .next t ∧ WritesOnly 15 (if f ≥ b then 1 else 0) s t) ∧
    (∃ t, exec (.subN 15 y) s = .next t ∧ WritesOnly 15 (if b ≥ f then 1 else 0) s t) ∧
    (∃ t, exec (.shiftR 15) s = .next t ∧ WritesOnly 15 (BitVec.ofNat 8 (f / 2)) s t) ∧
    (∃ t, exec (.shiftL 15) s = .next t ∧ WritesOnly 15 (BitVec.ofNat 8 (f * 2 % 256)) s t)

/-- Rand: the random byte of the cycle masked with `kk`, whatever that byte is; no bit outside `kk` is set (R171; that the
byte is a free input is the spec's decision D19). -/
def Obligations.RandMasksTheRandomByte : Prop :=
  ∀ (x : Reg) (kk : Byte) (s : State), ∃ t, exec (.rand x kk) s = .next t ∧ WritesOnly x (s.inp.rnd &&& kk) s t ∧
    t.getV x &&& ~~~kk = 0

-- The index register and memory instructions (spec/43_index_memory.md).

/-- LoadIdx and AddIdx: `I` is `nnn`; `I` is the sum modulo 65536, with no reduction to 12 bits and VF untouched (R180, R181). -/
def Obligations.IndexLoadAndAdd : Prop :=
  ∀ (nnn : Addr) (x : Reg) (s : State),
    (∃ t, exec (.loadIdx nnn) s = .next t ∧ t.I.toNat = nnn.toNat ∧ t.pc = s.pc + 2 ∧ Frame [.index] s t) ∧
    (∃ t, exec (.addIdx x) s = .next t ∧ t.I.toNat = (s.I.toNat + (s.getV x).toNat) % 65536 ∧ t.pc = s.pc + 2 ∧ Frame [.index] s t)

/-- LoadSprite: `I` is five times the whole V[x], which never overflows (that V[x] is not reduced to 4 bits is the spec's decision D20, R182). -/
def Obligations.LoadSpriteMultipliesByFive : Prop :=
  ∀ (x : Reg) (s : State), ∃ t, exec (.loadSprite x) s = .next t ∧ t.I.toNat = (s.getV x).toNat * 5 ∧ t.pc = s.pc + 2 ∧
    Frame [.index] s t

/-- LoadBCD: hundreds, tens and ones at I, I + 1, I + 2, no other byte, `I` unchanged; OutOfBoundsMemoryAccess and no byte written when
`I + 2 >= 4096` (R183; that nothing else changes then either is FatalErrorsExactly). -/
def Obligations.LoadBCDStoresDigits : Prop :=
  ∀ (x : Reg) (s : State),
    (s.I.toNat + 2 < 4096 → ∃ t, exec (.loadBCD x) s = .next t ∧
      t.memRead s.I.toNat = some (BitVec.ofNat 8 ((s.getV x).toNat / 100)) ∧
      t.memRead (s.I.toNat + 1) = some (BitVec.ofNat 8 ((s.getV x).toNat / 10 % 10)) ∧
      t.memRead (s.I.toNat + 2) = some (BitVec.ofNat 8 ((s.getV x).toNat % 10)) ∧
      (∀ a, (a < s.I.toNat ∨ s.I.toNat + 3 ≤ a) → t.memRead a = s.memRead a) ∧ t.pc = s.pc + 2 ∧ Frame [.memory] s t) ∧
    (4096 ≤ s.I.toNat + 2 → ∃ t, exec (.loadBCD x) s = .next t ∧ t.fault = .outOfBoundsMemoryAccess ∧
      ∀ a, t.memRead a = s.memRead a)

/-- StoreRegs: V[0] to V[x] at I to I + x, no other byte, `I` unchanged; OutOfBoundsMemoryAccess and no byte written when `I + x >= 4096`
(R184; that nothing else changes then either is FatalErrorsExactly). -/
def Obligations.StoreRegsStoresTheBlock : Prop :=
  ∀ (x : Reg) (s : State),
    (s.I.toNat + x.val < 4096 → ∃ t, exec (.storeRegs x) s = .next t ∧
      (∀ k : Reg, k.val ≤ x.val → t.memRead (s.I.toNat + k.val) = some (s.getV k)) ∧
      (∀ a, (a < s.I.toNat ∨ s.I.toNat + x.val < a) → t.memRead a = s.memRead a) ∧ t.pc = s.pc + 2 ∧ Frame [.memory] s t) ∧
    (4096 ≤ s.I.toNat + x.val → ∃ t, exec (.storeRegs x) s = .next t ∧ t.fault = .outOfBoundsMemoryAccess ∧
      ∀ a, t.memRead a = s.memRead a)

/-- ReadRegs: V[0] to V[x] are the bytes at I to I + x, the registers above and `I` unchanged; OutOfBoundsMemoryAccess and no register written when
`I + x >= 4096` (R185; that nothing else changes then either is FatalErrorsExactly). -/
def Obligations.ReadRegsLoadsTheBlock : Prop :=
  ∀ (x : Reg) (s : State),
    (s.I.toNat + x.val < 4096 → ∃ t, exec (.readRegs x) s = .next t ∧
      (∀ k : Reg, k.val ≤ x.val → s.memRead (s.I.toNat + k.val) = some (t.getV k)) ∧
      (∀ k : Reg, x.val < k.val → t.getV k = s.getV k) ∧ t.pc = s.pc + 2 ∧ Frame [.regs] s t) ∧
    (4096 ≤ s.I.toNat + x.val → ∃ t, exec (.readRegs x) s = .next t ∧ t.fault = .outOfBoundsMemoryAccess ∧
      ∀ k, t.getV k = s.getV k)

/-- StoreRegs then ReadRegs of the same block gives the registers back, from any state with the same memory and `I` (from R184 and R185). -/
def Obligations.StoreThenReadRestoresRegisters : Prop :=
  ∀ (x : Reg) (s t u : State), s.I.toNat + x.val < 4096 → exec (.storeRegs x) s = .next t → u.mem = t.mem → u.I = s.I →
    ∃ v, exec (.readRegs x) u = .next v ∧ (∀ k : Reg, k.val ≤ x.val → v.getV k = s.getV k) ∧
      (∀ k : Reg, x.val < k.val → v.getV k = u.getV k)

-- The display (spec/44_display.md).

/-- Clear: every pixel off, the `clear` event, pc + 2, nothing else (R201). -/
def Obligations.ClearTurnsEveryPixelOff : Prop :=
  ∀ s : State, ∃ t, exec .clear s = .next t ∧ (∀ r c, t.fb.pixel r c = false) ∧ t.display = some .clear ∧ t.pc = s.pc + 2 ∧
    Frame [.frameBuffer, .display] s t

/-- Draw with its sprite in range: exactly the pixels under 1 bits are toggled, VF is 1 if one of them was on and else 0, the `present` event lists
them in order with their new value; with n = 0 there are none, whatever `I` is (wrapping at the edges, n = 0 and the event's contents are the
spec's decisions D6, D7 and D9; R202, R204). -/
def Obligations.DrawComposesTheSprite : Prop :=
  ∀ (x y : Reg) (n : Nibble) (s : State), (n.toNat = 0 ∨ s.I.toNat + n.toNat ≤ 4096) →
    ∃ t, exec (.draw x y n) s = .next t ∧
      (∀ r c, t.fb.pixel r c = (s.fb.pixel r c ^^ decide ((r, c) ∈ litPixels s x y n))) ∧
      (t.getV 15 = if ∃ p ∈ litPixels s x y n, s.fb.pixel p.1 p.2 = true then 1 else 0) ∧
      t.display = some (.present ((litPixels s x y n).map fun p => { col := p.2, row := p.1, on := !s.fb.pixel p.1 p.2 })) ∧
      (∀ r, r ≠ 15 → t.getV r = s.getV r) ∧ t.pc = s.pc + 2 ∧ Frame [.regs, .frameBuffer, .display] s t

/-- Draw whose last sprite byte lies at 4096 or beyond: OutOfBoundsMemoryAccess, no pixel changes, VF is not written, no event (R202; that nothing
changes is the spec's decision D13). -/
def Obligations.DrawOutOfRangeRaises : Prop :=
  ∀ (x y : Reg) (n : Nibble) (s : State), 1 ≤ n.toNat → 4096 ≤ s.I.toNat + n.toNat - 1 →
    ∃ t, exec (.draw x y n) s = .next t ∧ RaisedFrom .outOfBoundsMemoryAccess s t

/-- Drawing the same sprite at the same place a second time, with no other write to the frame buffer between, gives the frame buffer back. The
second VF is 1 exactly when some pixel under a 1 bit was off before the first Draw; where they were all off (the source's example S7) the
first VF is 0 and the second is 1 exactly when the sprite has a 1 bit (from R202; log entry 28 says what R203 (b) leaves out). -/
def Obligations.DrawTwiceRestores : Prop :=
  ∀ (x y : Reg) (n : Nibble) (s t u : State), (n.toNat = 0 ∨ s.I.toNat + n.toNat ≤ 4096) → exec (.draw x y n) s = .next t →
    u.fb = t.fb → u.mem = s.mem → u.I = s.I → u.getV x = s.getV x → u.getV y = s.getV y →
    ∃ v, exec (.draw x y n) u = .next v ∧ v.fb = s.fb ∧
      (v.getV 15 = if ∃ p ∈ litPixels s x y n, s.fb.pixel p.1 p.2 = false then 1 else 0) ∧
      ((∀ p ∈ litPixels s x y n, s.fb.pixel p.1 p.2 = false) →
        t.getV 15 = 0 ∧ (litPixels s x y n ≠ [] → v.getV 15 = 1) ∧ (litPixels s x y n = [] → v.getV 15 = 0))

/-- A sink that applies every cycle's display event to its own copy of the frame buffer holds a copy of `fb` after any number of cycles (an
inference the spec marks in R204). -/
def Obligations.DisplayEventsMirrorTheFrameBuffer : Prop :=
  ∀ (k : Nat) (s t : State), Host.Core.run core k s = .next t → mirror k s s.fb = t.fb

-- Timers and keys (spec/45_timers_keys.md).

/-- LoadFromDT reads `dt` (as the drain of the cycle left it, the spec's decision D15), SetDT and SetST write `dt` and `st`; nothing else
changes (R220, R221, R222). -/
def Obligations.TimerInstructions : Prop :=
  ∀ (x : Reg) (s : State),
    (∃ t, exec (.loadFromDT x) s = .next t ∧ WritesOnly x s.dt s t) ∧
    (∃ t, exec (.setDT x) s = .next t ∧ t.dt = s.getV x ∧ t.pc = s.pc + 2 ∧ Frame [.delay] s t) ∧
    (∃ t, exec (.setST x) s = .next t ∧ t.st = s.getV x ∧ t.pc = s.pc + 2 ∧ Frame [.sound] s t)

/-- The key skips: for the code of an existing key its state decides; a value of 16 or more is no key and counts as not down, so SkipEqKey does not
skip and SkipNeqKey does (that last clause is the spec's decision D17; R223, R224). -/
def Obligations.KeySkips : Prop :=
  ∀ (x : Reg) (s : State), ∃ t u,
    exec (.skipEqKey x) s = .next t ∧ exec (.skipNeqKey x) s = .next u ∧ Frame [] s t ∧ Frame [] s u ∧
    (∀ k : KeyCode, (s.getV x).toNat = k.val → s.inp.keys[k] = true → t.pc = s.pc + 4 ∧ u.pc = s.pc + 2) ∧
    (∀ k : KeyCode, (s.getV x).toNat = k.val → s.inp.keys[k] = false → t.pc = s.pc + 2 ∧ u.pc = s.pc + 4) ∧
    (16 ≤ (s.getV x).toNat → t.pc = s.pc + 2 ∧ u.pc = s.pc + 4)

/-- LoadKey: a latched code goes to V[x] and pc + 2; with none latched nothing changes and the same word is presented again (that the latch is what it
reads is the spec's decision D18; R225). -/
def Obligations.LoadKeyWaitsForTheLatch : Prop :=
  ∀ (x : Reg) (s : State),
    (∀ c, s.inp.lastKey = some c → ∃ t, exec (.loadKey x) s = .next t ∧ WritesOnly x (BitVec.ofNat 8 c.val) s t) ∧
    (s.inp.lastKey = none → exec (.loadKey x) s = .next s)
end

