-- ==== Sys2Proof/Laws/Decode.lean ====
section
/-! SUPPORT. The fields of a word as numbers, the fields of a packed word, and a word under each mask of the opcode table. -/

namespace Sys2Proof

theorem toNat_append {a b : Nat} (x : BitVec a) (y : BitVec b) : (x ++ y).toNat = x.toNat * 2 ^ b + y.toNat := by
  rw [BitVec.toNat_append, ← Nat.shiftLeft_add_eq_or_of_lt y.isLt, Nat.shiftLeft_eq]

-- Packed words.

theorem toNat_packNNN (op : BitVec 4) (nnn : Addr) : (packNNN op nnn).toNat = op.toNat * 4096 + nnn.toNat := toNat_append op nnn

theorem toNat_packXKK (op : BitVec 4) (x : Reg) (kk : Byte) :
    (packXKK op x kk).toNat = op.toNat * 4096 + (x.val * 256 + kk.toNat) := by
  refine (toNat_append op _).trans ?_
  rw [toNat_append]
  rfl

theorem toNat_packXYN (op : BitVec 4) (x y : Reg) (n : Nibble) :
    (packXYN op x y n).toNat = op.toNat * 4096 + (x.val * 256 + (y.val * 16 + n.toNat)) := by
  refine (toNat_append op _).trans ?_
  rw [toNat_append, toNat_append]
  rfl

-- Fields of a word (R92).

theorem famOf_toNat (w : Word) : (famOf w).toNat = w.toNat / 4096 := by
  simp only [famOf, BitVec.extractLsb'_toNat, Nat.shiftRight_eq_div_pow]
  have := w.isLt
  omega

theorem nnnOf_toNat (w : Word) : (nnnOf w).toNat = w.toNat % 4096 := by
  simp only [nnnOf, BitVec.extractLsb'_toNat, Nat.shiftRight_eq_div_pow]
  omega

theorem kkOf_toNat (w : Word) : (kkOf w).toNat = w.toNat % 256 := by
  simp only [kkOf, BitVec.extractLsb'_toNat, Nat.shiftRight_eq_div_pow]
  omega

theorem nOf_toNat (w : Word) : (nOf w).toNat = w.toNat % 16 := by
  simp only [nOf, BitVec.extractLsb'_toNat, Nat.shiftRight_eq_div_pow]
  omega

theorem xOf_val (w : Word) : (xOf w).val = w.toNat / 256 % 16 := by
  change (w.extractLsb' 8 4).toNat = _
  simp only [BitVec.extractLsb'_toNat, Nat.shiftRight_eq_div_pow]

theorem yOf_val (w : Word) : (yOf w).val = w.toNat / 16 % 16 := by
  change (w.extractLsb' 4 4).toNat = _
  simp only [BitVec.extractLsb'_toNat, Nat.shiftRight_eq_div_pow]

-- Fields of a packed word.

@[simp] theorem famOf_packNNN (op : BitVec 4) (nnn : Addr) : famOf (packNNN op nnn) = op := by
  apply BitVec.eq_of_toNat_eq; rw [famOf_toNat, toNat_packNNN]; omega
@[simp] theorem nnnOf_packNNN (op : BitVec 4) (nnn : Addr) : nnnOf (packNNN op nnn) = nnn := by
  apply BitVec.eq_of_toNat_eq; rw [nnnOf_toNat, toNat_packNNN]; omega
@[simp] theorem famOf_packXKK (op : BitVec 4) (x : Reg) (kk : Byte) : famOf (packXKK op x kk) = op := by
  apply BitVec.eq_of_toNat_eq; rw [famOf_toNat, toNat_packXKK]; omega
@[simp] theorem xOf_packXKK (op : BitVec 4) (x : Reg) (kk : Byte) : xOf (packXKK op x kk) = x := by
  apply Fin.ext; rw [xOf_val, toNat_packXKK]; omega
@[simp] theorem kkOf_packXKK (op : BitVec 4) (x : Reg) (kk : Byte) : kkOf (packXKK op x kk) = kk := by
  apply BitVec.eq_of_toNat_eq; rw [kkOf_toNat, toNat_packXKK]; omega
@[simp] theorem famOf_packXYN (op : BitVec 4) (x y : Reg) (n : Nibble) : famOf (packXYN op x y n) = op := by
  apply BitVec.eq_of_toNat_eq; rw [famOf_toNat, toNat_packXYN]; omega
@[simp] theorem xOf_packXYN (op : BitVec 4) (x y : Reg) (n : Nibble) : xOf (packXYN op x y n) = x := by
  apply Fin.ext; rw [xOf_val, toNat_packXYN]; omega
@[simp] theorem yOf_packXYN (op : BitVec 4) (x y : Reg) (n : Nibble) : yOf (packXYN op x y n) = y := by
  apply Fin.ext; rw [yOf_val, toNat_packXYN]; omega
@[simp] theorem nOf_packXYN (op : BitVec 4) (x y : Reg) (n : Nibble) : nOf (packXYN op x y n) = n := by
  apply BitVec.eq_of_toNat_eq; rw [nOf_toNat, toNat_packXYN]; omega

/-- A word of two bytes, high byte first, is the word (R67). -/
theorem wordOfBytes_bytesOfWord (w : Word) : wordOfBytes (w.extractLsb' 8 8) (w.extractLsb' 0 8) = w := by
  apply BitVec.eq_of_toNat_eq
  refine (toNat_append _ _).trans ?_
  simp only [BitVec.extractLsb'_toNat, Nat.shiftRight_eq_div_pow]
  have := w.isLt
  omega

-- A word under the four masks of the opcode table (R97).

theorem word_parts (w : Word) :
    w = famOf w ++ (BitVec.ofFin (w := 4) (xOf w) ++ (BitVec.ofFin (w := 4) (yOf w) ++ nOf w)) := by
  apply BitVec.eq_of_toNat_eq
  refine Eq.trans ?_ (toNat_packXYN (famOf w) (xOf w) (yOf w) (nOf w)).symm
  rw [famOf_toNat, xOf_val, yOf_val, nOf_toNat]
  have := w.isLt
  omega

theorem and_parts (w : Word) (a b c d : BitVec 4) :
    w &&& (a ++ (b ++ (c ++ d))) =
      (famOf w &&& a) ++ ((BitVec.ofFin (w := 4) (xOf w) &&& b) ++ ((BitVec.ofFin (w := 4) (yOf w) &&& c) ++ (nOf w &&& d))) := by
  conv => lhs; lhs; rw [word_parts w]
  rw [← BitVec.and_append, ← BitVec.and_append, ← BitVec.and_append]

theorem and_ones (b : BitVec 4) : b &&& 0xF#4 = b := BitVec.and_allOnes

/-- Family rows: the family decides. -/
theorem and_F000 (w : Word) : (w &&& 0xF000).toNat = w.toNat / 4096 * 4096 := by
  have h := and_parts w 0xF#4 0#4 0#4 0#4
  rw [show (0xF000 : Word) = 0xF#4 ++ (0#4 ++ (0#4 ++ 0#4)) from rfl, h, and_ones, BitVec.and_zero, BitVec.and_zero, BitVec.and_zero]
  refine (toNat_packXYN (famOf w) 0 0 0).trans ?_
  rw [famOf_toNat]
  simp

/-- Families 8 and 9: the family and the low nibble decide. -/
theorem and_F00F (w : Word) : (w &&& 0xF00F).toNat = w.toNat / 4096 * 4096 + w.toNat % 16 := by
  have h := and_parts w 0xF#4 0#4 0#4 0xF#4
  rw [show (0xF00F : Word) = 0xF#4 ++ (0#4 ++ (0#4 ++ 0xF#4)) from rfl, h, and_ones, and_ones, BitVec.and_zero, BitVec.and_zero]
  refine (toNat_packXYN (famOf w) 0 0 (nOf w)).trans ?_
  rw [famOf_toNat, nOf_toNat]
  simp

/-- Families E and F: the family and the low byte decide. -/
theorem and_F0FF (w : Word) : (w &&& 0xF0FF).toNat = w.toNat / 4096 * 4096 + w.toNat % 256 := by
  have h := and_parts w 0xF#4 0#4 0xF#4 0xF#4
  rw [show (0xF0FF : Word) = 0xF#4 ++ (0#4 ++ (0xF#4 ++ 0xF#4)) from rfl, h, and_ones, and_ones, and_ones, BitVec.and_zero]
  refine (toNat_packXYN (famOf w) 0 (yOf w) (nOf w)).trans ?_
  rw [famOf_toNat, yOf_val, nOf_toNat]
  simp
  omega

theorem and_FFFF (w : Word) : w &&& 0xFFFF = w := BitVec.and_allOnes

end Sys2Proof
end

