-- ==== Sys2Proof/Laws/Display.lean ====
section
/-! SUPPORT. What plotting a sprite does to one pixel, to the collision and to the list of changed pixels. -/

namespace Sys2Proof.Machine

/-- A pixel of a frame buffer in which one pixel was set. -/
theorem FrameBuffer.pixel_setPixel (fb : FrameBuffer) (r r' : Row) (c c' : Col) (b : Bool) :
    (fb.setPixel r c b).pixel r' c' = if r' = r ∧ c' = c then b else fb.pixel r' c' := by
  simp only [FrameBuffer.pixel, FrameBuffer.setPixel, Fin.getElem_fin, Vector.getElem_set]
  by_cases hr : r' = r
  · subst hr
    simp only [if_true, Vector.getElem_set, true_and]
    by_cases hc : c' = c
    · simp [hc]
    · have hv : ¬ c.val = c'.val := fun e => hc (Fin.ext e.symm)
      simp [hc, hv]
  · have hv : ¬ r.val = r'.val := fun e => hr (Fin.ext e.symm)
    simp [hr, hv]

/-- Two frame buffers with the same pixels are equal. -/
theorem FrameBuffer.ext_pixel (f g : FrameBuffer) (h : ∀ r c, f.pixel r c = g.pixel r c) : f = g := by
  apply Vector.ext
  intro r hr
  apply Vector.ext
  intro c hc
  exact h ⟨r, hr⟩ ⟨c, hc⟩

theorem FrameBuffer.pixel_off (r : Row) (c : Col) : FrameBuffer.off.pixel r c = false := by
  simp [FrameBuffer.pixel, FrameBuffer.off]

@[simp] theorem plot_fb (cv : Canvas) (r : Row) (c : Col) (bit : Bool) :
    (plot cv r c bit).fb = cv.fb.setPixel r c (cv.fb.pixel r c ^^ bit) := rfl

@[simp] theorem plot_collision (cv : Canvas) (r : Row) (c : Col) (bit : Bool) :
    (plot cv r c bit).collision = (cv.collision || (cv.fb.pixel r c && bit)) := rfl

@[simp] theorem plot_diffs (cv : Canvas) (r : Row) (c : Col) (bit : Bool) :
    (plot cv r c bit).diffs = if bit then cv.diffs ++ [{ col := c, row := r, on := cv.fb.pixel r c ^^ bit }] else cv.diffs := rfl

/-- One sprite bit toggles its own pixel and no other. -/
theorem plot_pixel (cv : Canvas) (r r' : Row) (c c' : Col) (bit : Bool) :
    (plot cv r c bit).fb.pixel r' c' = (cv.fb.pixel r' c' ^^ (decide (r' = r ∧ c' = c) && bit)) := by
  rw [plot_fb, FrameBuffer.pixel_setPixel]
  by_cases h : r' = r ∧ c' = c
  · simp [h]
  · simp [h]

-- A whole sprite.

/-- The canvas is the frame buffer `f` with the pixels of `D` toggled, its collision flag says whether one of them was on, and its records
are theirs in order. -/
def Toggled (f : FrameBuffer) (D : List (Row × Col)) (cv : Canvas) : Prop :=
  (∀ r c, cv.fb.pixel r c = (f.pixel r c ^^ decide ((r, c) ∈ D))) ∧
  cv.collision = decide (∃ p ∈ D, f.pixel p.1 p.2 = true) ∧
  cv.diffs = D.map fun p => { col := p.2, row := p.1, on := !f.pixel p.1 p.2 }

/-- One more sprite bit, at a pixel not toggled so far. -/
theorem toggled_plot {f D cv} (h : Toggled f D cv) (r : Row) (c : Col) (bit : Bool) (hn : (r, c) ∉ D) :
    Toggled f (if bit then D ++ [(r, c)] else D) (plot cv r c bit) := by
  obtain ⟨h1, h2, h3⟩ := h
  have hp : cv.fb.pixel r c = f.pixel r c := by rw [h1]; simp [hn]
  cases bit with
  | false =>
    refine ⟨fun r' c' => by rw [plot_pixel, h1]; simp, by simp [h2], by simp [h3]⟩
  | true =>
    refine ⟨fun r' c' => ?_, ?_, ?_⟩
    · rw [plot_pixel, h1]
      by_cases e : r' = r ∧ c' = c
      · obtain ⟨rfl, rfl⟩ := e; simp [hn]
      · have : ¬ (r', c') = (r, c) := fun x => e ⟨congrArg Prod.fst x, congrArg Prod.snd x⟩
        simp [e]
    · rw [plot_collision, h2, hp]
      have : (∃ p ∈ D ++ [(r, c)], f.pixel p.1 p.2 = true) ↔ (∃ p ∈ D, f.pixel p.1 p.2 = true) ∨ f.pixel r c = true := by
        constructor
        · rintro ⟨p, hp, h⟩
          rcases List.mem_append.1 hp with hp | hp
          · exact .inl ⟨p, hp, h⟩
          · rw [List.mem_singleton] at hp; subst hp; exact .inr h
        · rintro (⟨p, hp, h⟩ | h)
          · exact ⟨p, List.mem_append.2 (.inl hp), h⟩
          · exact ⟨(r, c), by simp, h⟩
      simp only [if_true, Bool.and_true, this, Bool.decide_or, Bool.decide_eq_true]
    · rw [plot_diffs, h3, hp]; simp

/-- The pixels under the 1 bits of the last `k` columns of a sprite row. -/
def rowLit (r : Row) (cx : Nat) (b : Byte) (k : Nat) : List (Row × Col) :=
  ((List.range' (8 - k) k).filter fun j => b.getLsbD (7 - j)).map fun j => (r, Fin.ofNat 64 (cx + j))

/-- One sprite row: its 8 columns are distinct, since 8 is at most 64. -/
theorem toggled_cols {f} (cx : Nat) (r : Row) (b : Byte) (k : Nat) (hk : k ≤ 8) : ∀ {D cv}, Toggled f D cv →
    (∀ j, 8 - k ≤ j → j < 8 → (r, Fin.ofNat 64 (cx + j)) ∉ D) → Toggled f (D ++ rowLit r cx b k) (plotCols cx r b k cv) := by
  induction k with
  | zero => intro D cv h _; simpa [rowLit, plotCols] using h
  | succ k ih =>
    intro D cv h hd
    have h1 := toggled_plot h r (wrapCol (cx + (7 - k))) (spriteBit b (7 - k)) (hd _ (by omega) (by omega))
    have e : rowLit r cx b (k + 1) = (if spriteBit b (7 - k) then [(r, wrapCol (cx + (7 - k)))] else []) ++ rowLit r cx b k := by
      simp only [rowLit, show 8 - (k + 1) = 7 - k by omega, List.range'_succ, show 7 - k + 1 = 8 - k by omega, List.filter_cons]
      have : b.getLsbD (7 - (7 - k)) = spriteBit b (7 - k) := rfl
      rw [this]
      cases spriteBit b (7 - k) <;> simp [wrapCol]
    rw [e, ← List.append_assoc]
    have e2 : D ++ (if spriteBit b (7 - k) then [(r, wrapCol (cx + (7 - k)))] else []) = if spriteBit b (7 - k) then D ++ [(r, wrapCol (cx + (7 - k)))] else D := by
      cases spriteBit b (7 - k) <;> simp
    rw [e2]
    refine ih (by omega) h1 fun j h8 hj hm => ?_
    have : (r, Fin.ofNat 64 (cx + j)) ∉ D := hd j (by omega) hj
    cases hb : spriteBit b (7 - k) <;> rw [hb] at hm
    · exact this (by simpa using hm)
    · simp only [if_true, List.mem_append, List.mem_singleton, Prod.mk.injEq, true_and] at hm
      rcases hm with hm | hm
      · exact this hm
      · have := congrArg Fin.val hm
        simp [wrapCol, Fin.ofNat] at this
        omega

/-- The pixels under the 1 bits of a sprite. -/
def rowsLit (cx : Nat) : Nat → List Byte → List (Row × Col)
  | _, [] => []
  | cy, b :: bs => rowLit (Fin.ofNat 32 cy) cx b 8 ++ rowsLit cx (cy + 1) bs


theorem mem_rowLit {r : Row} {cx b k p} (h : p ∈ rowLit r cx b k) : p.1 = r := by
  simp [rowLit] at h
  obtain ⟨j, _, rfl⟩ := h
  rfl

/-- The rows of a sprite: they are distinct, since a sprite has at most 15 and a screen 32. -/
theorem toggled_rows {f} (cx : Nat) (bs : List Byte) : ∀ cy {D cv}, bs.length ≤ 32 → Toggled f D cv →
    (∀ p ∈ D, ∀ j, j < bs.length → p.1 ≠ Fin.ofNat 32 (cy + j)) → Toggled f (D ++ rowsLit cx cy bs) (plotRows cx cy bs cv) := by
  induction bs with
  | nil => intro cy D cv _ h _; simpa [rowsLit, plotRows] using h
  | cons b bs ih =>
    intro cy D cv hl h hd
    simp only [rowsLit, plotRows, ← List.append_assoc]
    refine ih (cy + 1) (by simp at hl; omega) (toggled_cols cx _ b 8 (Nat.le_refl _) h fun j _ _ hm => hd _ hm 0 (by simp) rfl) ?_
    intro p hp j hj
    rcases List.mem_append.1 hp with hp | hp
    · have := hd p hp (j + 1) (by simpa using hj)
      rwa [show cy + 1 + j = cy + (j + 1) by omega]
    · rw [mem_rowLit hp]
      intro e
      have := congrArg Fin.val e
      simp [Fin.ofNat] at this
      simp at hl
      omega
/-- Everything the loops of Draw do (R202, R204). -/
theorem toggled_compose (f : FrameBuffer) (cx cy : Nat) (bs : List Byte) (h : bs.length ≤ 32) :
    Toggled f (rowsLit cx cy bs) (compose f cx cy bs) := by
  have := toggled_rows (f := f) (D := []) (cv := { fb := f, collision := false, diffs := [] }) cx bs cy h ⟨fun r c => by simp, by simp, rfl⟩ (by simp)
  simpa [compose] using this
/-- The pixels under the 1 bits of a sprite read from memory, in closed form. -/
theorem rowsLit_eq (m : Memory) (a cx cy n : Nat) : rowsLit cx cy ((List.range' a n).map m.read) =
    (List.range n).flatMap fun row => ((List.range 8).filter fun col => (m.read (a + row)).getLsbD (7 - col)).map fun col =>
      (Fin.ofNat 32 (cy + row), Fin.ofNat 64 (cx + col)) := by
  induction n generalizing a cy with
  | zero => rfl
  | succ n ih =>
    rw [List.range'_succ, List.map_cons, rowsLit, ih, show List.range (n + 1) = 0 :: (List.range n).map Nat.succ from List.range_succ_eq_map, List.flatMap_cons, List.flatMap_map]
    congr 1
    congr 1
    funext j
    rw [show a + 1 + j = a + (j+1) by omega, show cy + 1 + j = cy + (j+1) by omega]

end Sys2Proof.Machine
end

