-- ==== Sys2Proof/Laws/Memory.lean ====
section
/-! SUPPORT. The memory: a read after a write, and the canonical form every write keeps. -/

namespace Sys2Proof.Machine

@[simp] theorem Memory.read_nil (a : Nat) : Memory.read [] a = Memory.initial a := rfl

theorem Memory.read_cons (b : Nat) (v : Byte) (m : Memory) (a : Nat) :
    Memory.read ((b, v) :: m) a = if a = b then v else m.read a := rfl

theorem Memory.erase_cons (b : Nat) (v : Byte) (m : Memory) (a : Nat) :
    Memory.erase ((b, v) :: m) a = if b = a then m.erase a else (b, v) :: m.erase a := by
  by_cases h : b = a <;> simp [Memory.erase, h]

theorem Memory.read_erase (m : Memory) (a k : Nat) :
    (m.erase a).read k = if k = a then Memory.initial k else m.read k := by
  induction m with
  | nil => simp [Memory.erase]
  | cons c m ih =>
    obtain ⟨b, w⟩ := c
    rw [Memory.erase_cons, Memory.read_cons]
    by_cases hb : b = a
    · rw [if_pos hb, ih]
      by_cases hk : k = a <;> simp [hk, hb]
    · rw [if_neg hb, Memory.read_cons, ih]
      by_cases hk : k = a
      · have : ¬ a = b := fun h => hb h.symm
        simp [hk, this]
      · simp [hk]

theorem Memory.read_insert_same (m : Memory) (a : Nat) (v : Byte) : ((m.erase a).insert a v).read a = v := by
  induction m with
  | nil => simp [Memory.erase, Memory.insert, Memory.read_cons]
  | cons c m ih =>
    obtain ⟨b, w⟩ := c
    rw [Memory.erase_cons]
    split
    · exact ih
    · simp only [Memory.insert]
      split
      · simp [Memory.read_cons]
      · rw [Memory.read_cons, if_neg (by omega), ih]

theorem Memory.read_insert_ne (m : Memory) (a : Nat) (v : Byte) (k : Nat) (hk : k ≠ a) :
    (m.insert a v).read k = m.read k := by
  induction m with
  | nil => simp [Memory.insert, Memory.read_cons, hk]
  | cons c m ih =>
    obtain ⟨b, w⟩ := c
    simp only [Memory.insert]
    split
    · rw [Memory.read_cons, if_neg hk]
    · rw [Memory.read_cons, Memory.read_cons, ih]

/-- A read after a write (R63, R73): the byte written at its own address, the old byte anywhere else. -/
theorem Memory.read_write (m : Memory) (a : Nat) (v : Byte) (k : Nat) :
    (m.write a v).read k = if k = a then v else m.read k := by
  unfold Memory.write
  split
  · rename_i h
    rw [Memory.read_erase]
    by_cases hk : k = a <;> simp [hk, h]
  · by_cases hk : k = a
    · rw [if_pos hk, hk, Memory.read_insert_same]
    · rw [if_neg hk, Memory.read_insert_ne _ _ _ _ hk, Memory.read_erase, if_neg hk]

theorem Memory.wfFrom_cons (lo b : Nat) (v : Byte) (m : Memory) :
    Memory.wfFrom lo ((b, v) :: m) = true ↔
      lo ≤ b ∧ b < Config.memSize ∧ v ≠ Memory.initial b ∧ Memory.wfFrom (b + 1) m = true := by
  simp [Memory.wfFrom, and_assoc]

theorem Memory.wfFrom_mono {lo lo' : Nat} (m : Memory) (h : Memory.wfFrom lo m = true) (hl : lo' ≤ lo) :
    Memory.wfFrom lo' m = true := by
  cases m with
  | nil => rfl
  | cons c m =>
    rw [Memory.wfFrom_cons] at h ⊢
    exact ⟨by omega, h.2⟩

theorem Memory.wfFrom_erase (lo : Nat) (m : Memory) (a : Nat) (h : Memory.wfFrom lo m = true) :
    Memory.wfFrom lo (m.erase a) = true := by
  induction m generalizing lo with
  | nil => rfl
  | cons c m ih =>
    obtain ⟨b, w⟩ := c
    rw [Memory.wfFrom_cons] at h
    rw [Memory.erase_cons]
    split
    · exact ih lo (Memory.wfFrom_mono m h.2.2.2 (by omega))
    · exact (Memory.wfFrom_cons ..).2 ⟨h.1, h.2.1, h.2.2.1, ih (b + 1) h.2.2.2⟩

theorem Memory.wfFrom_insert (lo : Nat) (m : Memory) (a : Nat) (v : Byte) (hlo : lo ≤ a) (ha : a < Config.memSize)
    (hv : v ≠ Memory.initial a) (h : Memory.wfFrom lo m = true) : Memory.wfFrom lo ((m.erase a).insert a v) = true := by
  induction m generalizing lo with
  | nil => exact (Memory.wfFrom_cons ..).2 ⟨hlo, ha, hv, rfl⟩
  | cons c m ih =>
    obtain ⟨b, w⟩ := c
    rw [Memory.wfFrom_cons] at h
    rw [Memory.erase_cons]
    split
    · exact ih lo hlo (Memory.wfFrom_mono m h.2.2.2 (by omega))
    · simp only [Memory.insert]
      have he := Memory.wfFrom_erase (b + 1) m a h.2.2.2
      split
      · exact (Memory.wfFrom_cons ..).2
          ⟨hlo, ha, hv, (Memory.wfFrom_cons ..).2 ⟨by omega, h.2.1, h.2.2.1, he⟩⟩
      · exact (Memory.wfFrom_cons ..).2 ⟨h.1, h.2.1, h.2.2.1, ih (b + 1) (by omega) h.2.2.2⟩

/-- Writing a byte that exists keeps the canonical form. -/
theorem Memory.wf_write (m : Memory) (a : Nat) (v : Byte) (ha : a < Config.memSize) (h : m.wf = true) :
    (m.write a v).wf = true := by
  unfold Memory.write
  split
  · exact Memory.wfFrom_erase 0 m a h
  · exact Memory.wfFrom_insert 0 m a v (Nat.zero_le a) ha (by assumption) h

/-- The memory after reset has the canonical form. -/
theorem Memory.wf_reset : State.reset.mem.wf = true := rfl

end Sys2Proof.Machine
end

