-- ==== Sys2Proof/Laws/State.lean ====
section
/-! SUPPORT. Each field after each update of the state, true by definition, so that no later proof unfolds a record update. -/

namespace Sys2Proof.Machine

variable (s : State)

@[simp] theorem State.setV_V (r : Reg) (b : Byte) : (s.setV r b).V = s.V.set r b := rfl
@[simp] theorem State.setV_pc (r : Reg) (b : Byte) : (s.setV r b).pc = s.pc := rfl
@[simp] theorem State.setV_I (r : Reg) (b : Byte) : (s.setV r b).I = s.I := rfl
@[simp] theorem State.setV_sp (r : Reg) (b : Byte) : (s.setV r b).sp = s.sp := rfl
@[simp] theorem State.setV_stack (r : Reg) (b : Byte) : (s.setV r b).stack = s.stack := rfl
@[simp] theorem State.setV_dt (r : Reg) (b : Byte) : (s.setV r b).dt = s.dt := rfl
@[simp] theorem State.setV_st (r : Reg) (b : Byte) : (s.setV r b).st = s.st := rfl
@[simp] theorem State.setV_fb (r : Reg) (b : Byte) : (s.setV r b).fb = s.fb := rfl
@[simp] theorem State.setV_mem (r : Reg) (b : Byte) : (s.setV r b).mem = s.mem := rfl
@[simp] theorem State.setV_fault (r : Reg) (b : Byte) : (s.setV r b).fault = s.fault := rfl
@[simp] theorem State.setV_inp (r : Reg) (b : Byte) : (s.setV r b).inp = s.inp := rfl
@[simp] theorem State.setV_script (r : Reg) (b : Byte) : (s.setV r b).script = s.script := rfl
@[simp] theorem State.setV_cycleNo (r : Reg) (b : Byte) : (s.setV r b).cycleNo = s.cycleNo := rfl
@[simp] theorem State.setV_display (r : Reg) (b : Byte) : (s.setV r b).display = s.display := rfl
@[simp] theorem State.setV_decodeFail (r : Reg) (b : Byte) : (s.setV r b).decodeFail = s.decodeFail := rfl
@[simp] theorem State.setV_life (r : Reg) (b : Byte) : (s.setV r b).life = s.life := rfl

@[simp] theorem State.setRegs_V (bs : List Byte) : (s.setRegs bs).V = Vector.ofFn fun k => bs.getD k.val (s.getV k) := rfl
@[simp] theorem State.setRegs_pc (bs : List Byte) : (s.setRegs bs).pc = s.pc := rfl
@[simp] theorem State.setRegs_I (bs : List Byte) : (s.setRegs bs).I = s.I := rfl
@[simp] theorem State.setRegs_sp (bs : List Byte) : (s.setRegs bs).sp = s.sp := rfl
@[simp] theorem State.setRegs_stack (bs : List Byte) : (s.setRegs bs).stack = s.stack := rfl
@[simp] theorem State.setRegs_dt (bs : List Byte) : (s.setRegs bs).dt = s.dt := rfl
@[simp] theorem State.setRegs_st (bs : List Byte) : (s.setRegs bs).st = s.st := rfl
@[simp] theorem State.setRegs_fb (bs : List Byte) : (s.setRegs bs).fb = s.fb := rfl
@[simp] theorem State.setRegs_mem (bs : List Byte) : (s.setRegs bs).mem = s.mem := rfl
@[simp] theorem State.setRegs_fault (bs : List Byte) : (s.setRegs bs).fault = s.fault := rfl
@[simp] theorem State.setRegs_inp (bs : List Byte) : (s.setRegs bs).inp = s.inp := rfl
@[simp] theorem State.setRegs_script (bs : List Byte) : (s.setRegs bs).script = s.script := rfl
@[simp] theorem State.setRegs_cycleNo (bs : List Byte) : (s.setRegs bs).cycleNo = s.cycleNo := rfl
@[simp] theorem State.setRegs_display (bs : List Byte) : (s.setRegs bs).display = s.display := rfl
@[simp] theorem State.setRegs_decodeFail (bs : List Byte) : (s.setRegs bs).decodeFail = s.decodeFail := rfl
@[simp] theorem State.setRegs_life (bs : List Byte) : (s.setRegs bs).life = s.life := rfl

@[simp] theorem State.setPc_V (w : Word) : (s.setPc w).V = s.V := rfl
@[simp] theorem State.setPc_pc (w : Word) : (s.setPc w).pc = w := rfl
@[simp] theorem State.setPc_I (w : Word) : (s.setPc w).I = s.I := rfl
@[simp] theorem State.setPc_sp (w : Word) : (s.setPc w).sp = s.sp := rfl
@[simp] theorem State.setPc_stack (w : Word) : (s.setPc w).stack = s.stack := rfl
@[simp] theorem State.setPc_dt (w : Word) : (s.setPc w).dt = s.dt := rfl
@[simp] theorem State.setPc_st (w : Word) : (s.setPc w).st = s.st := rfl
@[simp] theorem State.setPc_fb (w : Word) : (s.setPc w).fb = s.fb := rfl
@[simp] theorem State.setPc_mem (w : Word) : (s.setPc w).mem = s.mem := rfl
@[simp] theorem State.setPc_fault (w : Word) : (s.setPc w).fault = s.fault := rfl
@[simp] theorem State.setPc_inp (w : Word) : (s.setPc w).inp = s.inp := rfl
@[simp] theorem State.setPc_script (w : Word) : (s.setPc w).script = s.script := rfl
@[simp] theorem State.setPc_cycleNo (w : Word) : (s.setPc w).cycleNo = s.cycleNo := rfl
@[simp] theorem State.setPc_display (w : Word) : (s.setPc w).display = s.display := rfl
@[simp] theorem State.setPc_decodeFail (w : Word) : (s.setPc w).decodeFail = s.decodeFail := rfl
@[simp] theorem State.setPc_life (w : Word) : (s.setPc w).life = s.life := rfl

@[simp] theorem State.setI_V (w : Word) : (s.setI w).V = s.V := rfl
@[simp] theorem State.setI_pc (w : Word) : (s.setI w).pc = s.pc := rfl
@[simp] theorem State.setI_I (w : Word) : (s.setI w).I = w := rfl
@[simp] theorem State.setI_sp (w : Word) : (s.setI w).sp = s.sp := rfl
@[simp] theorem State.setI_stack (w : Word) : (s.setI w).stack = s.stack := rfl
@[simp] theorem State.setI_dt (w : Word) : (s.setI w).dt = s.dt := rfl
@[simp] theorem State.setI_st (w : Word) : (s.setI w).st = s.st := rfl
@[simp] theorem State.setI_fb (w : Word) : (s.setI w).fb = s.fb := rfl
@[simp] theorem State.setI_mem (w : Word) : (s.setI w).mem = s.mem := rfl
@[simp] theorem State.setI_fault (w : Word) : (s.setI w).fault = s.fault := rfl
@[simp] theorem State.setI_inp (w : Word) : (s.setI w).inp = s.inp := rfl
@[simp] theorem State.setI_script (w : Word) : (s.setI w).script = s.script := rfl
@[simp] theorem State.setI_cycleNo (w : Word) : (s.setI w).cycleNo = s.cycleNo := rfl
@[simp] theorem State.setI_display (w : Word) : (s.setI w).display = s.display := rfl
@[simp] theorem State.setI_decodeFail (w : Word) : (s.setI w).decodeFail = s.decodeFail := rfl
@[simp] theorem State.setI_life (w : Word) : (s.setI w).life = s.life := rfl

@[simp] theorem State.setSp_V (n : Fin 17) : (s.setSp n).V = s.V := rfl
@[simp] theorem State.setSp_pc (n : Fin 17) : (s.setSp n).pc = s.pc := rfl
@[simp] theorem State.setSp_I (n : Fin 17) : (s.setSp n).I = s.I := rfl
@[simp] theorem State.setSp_sp (n : Fin 17) : (s.setSp n).sp = n := rfl
@[simp] theorem State.setSp_stack (n : Fin 17) : (s.setSp n).stack = s.stack := rfl
@[simp] theorem State.setSp_dt (n : Fin 17) : (s.setSp n).dt = s.dt := rfl
@[simp] theorem State.setSp_st (n : Fin 17) : (s.setSp n).st = s.st := rfl
@[simp] theorem State.setSp_fb (n : Fin 17) : (s.setSp n).fb = s.fb := rfl
@[simp] theorem State.setSp_mem (n : Fin 17) : (s.setSp n).mem = s.mem := rfl
@[simp] theorem State.setSp_fault (n : Fin 17) : (s.setSp n).fault = s.fault := rfl
@[simp] theorem State.setSp_inp (n : Fin 17) : (s.setSp n).inp = s.inp := rfl
@[simp] theorem State.setSp_script (n : Fin 17) : (s.setSp n).script = s.script := rfl
@[simp] theorem State.setSp_cycleNo (n : Fin 17) : (s.setSp n).cycleNo = s.cycleNo := rfl
@[simp] theorem State.setSp_display (n : Fin 17) : (s.setSp n).display = s.display := rfl
@[simp] theorem State.setSp_decodeFail (n : Fin 17) : (s.setSp n).decodeFail = s.decodeFail := rfl
@[simp] theorem State.setSp_life (n : Fin 17) : (s.setSp n).life = s.life := rfl

@[simp] theorem State.setStackEntry_V (k : Fin 16) (w : Word) : (s.setStackEntry k w).V = s.V := rfl
@[simp] theorem State.setStackEntry_pc (k : Fin 16) (w : Word) : (s.setStackEntry k w).pc = s.pc := rfl
@[simp] theorem State.setStackEntry_I (k : Fin 16) (w : Word) : (s.setStackEntry k w).I = s.I := rfl
@[simp] theorem State.setStackEntry_sp (k : Fin 16) (w : Word) : (s.setStackEntry k w).sp = s.sp := rfl
@[simp] theorem State.setStackEntry_stack (k : Fin 16) (w : Word) : (s.setStackEntry k w).stack = s.stack.set k w := rfl
@[simp] theorem State.setStackEntry_dt (k : Fin 16) (w : Word) : (s.setStackEntry k w).dt = s.dt := rfl
@[simp] theorem State.setStackEntry_st (k : Fin 16) (w : Word) : (s.setStackEntry k w).st = s.st := rfl
@[simp] theorem State.setStackEntry_fb (k : Fin 16) (w : Word) : (s.setStackEntry k w).fb = s.fb := rfl
@[simp] theorem State.setStackEntry_mem (k : Fin 16) (w : Word) : (s.setStackEntry k w).mem = s.mem := rfl
@[simp] theorem State.setStackEntry_fault (k : Fin 16) (w : Word) : (s.setStackEntry k w).fault = s.fault := rfl
@[simp] theorem State.setStackEntry_inp (k : Fin 16) (w : Word) : (s.setStackEntry k w).inp = s.inp := rfl
@[simp] theorem State.setStackEntry_script (k : Fin 16) (w : Word) : (s.setStackEntry k w).script = s.script := rfl
@[simp] theorem State.setStackEntry_cycleNo (k : Fin 16) (w : Word) : (s.setStackEntry k w).cycleNo = s.cycleNo := rfl
@[simp] theorem State.setStackEntry_display (k : Fin 16) (w : Word) : (s.setStackEntry k w).display = s.display := rfl
@[simp] theorem State.setStackEntry_decodeFail (k : Fin 16) (w : Word) : (s.setStackEntry k w).decodeFail = s.decodeFail := rfl
@[simp] theorem State.setStackEntry_life (k : Fin 16) (w : Word) : (s.setStackEntry k w).life = s.life := rfl

@[simp] theorem State.setDt_V (b : Byte) : (s.setDt b).V = s.V := rfl
@[simp] theorem State.setDt_pc (b : Byte) : (s.setDt b).pc = s.pc := rfl
@[simp] theorem State.setDt_I (b : Byte) : (s.setDt b).I = s.I := rfl
@[simp] theorem State.setDt_sp (b : Byte) : (s.setDt b).sp = s.sp := rfl
@[simp] theorem State.setDt_stack (b : Byte) : (s.setDt b).stack = s.stack := rfl
@[simp] theorem State.setDt_dt (b : Byte) : (s.setDt b).dt = b := rfl
@[simp] theorem State.setDt_st (b : Byte) : (s.setDt b).st = s.st := rfl
@[simp] theorem State.setDt_fb (b : Byte) : (s.setDt b).fb = s.fb := rfl
@[simp] theorem State.setDt_mem (b : Byte) : (s.setDt b).mem = s.mem := rfl
@[simp] theorem State.setDt_fault (b : Byte) : (s.setDt b).fault = s.fault := rfl
@[simp] theorem State.setDt_inp (b : Byte) : (s.setDt b).inp = s.inp := rfl
@[simp] theorem State.setDt_script (b : Byte) : (s.setDt b).script = s.script := rfl
@[simp] theorem State.setDt_cycleNo (b : Byte) : (s.setDt b).cycleNo = s.cycleNo := rfl
@[simp] theorem State.setDt_display (b : Byte) : (s.setDt b).display = s.display := rfl
@[simp] theorem State.setDt_decodeFail (b : Byte) : (s.setDt b).decodeFail = s.decodeFail := rfl
@[simp] theorem State.setDt_life (b : Byte) : (s.setDt b).life = s.life := rfl

@[simp] theorem State.setSt_V (b : Byte) : (s.setSt b).V = s.V := rfl
@[simp] theorem State.setSt_pc (b : Byte) : (s.setSt b).pc = s.pc := rfl
@[simp] theorem State.setSt_I (b : Byte) : (s.setSt b).I = s.I := rfl
@[simp] theorem State.setSt_sp (b : Byte) : (s.setSt b).sp = s.sp := rfl
@[simp] theorem State.setSt_stack (b : Byte) : (s.setSt b).stack = s.stack := rfl
@[simp] theorem State.setSt_dt (b : Byte) : (s.setSt b).dt = s.dt := rfl
@[simp] theorem State.setSt_st (b : Byte) : (s.setSt b).st = b := rfl
@[simp] theorem State.setSt_fb (b : Byte) : (s.setSt b).fb = s.fb := rfl
@[simp] theorem State.setSt_mem (b : Byte) : (s.setSt b).mem = s.mem := rfl
@[simp] theorem State.setSt_fault (b : Byte) : (s.setSt b).fault = s.fault := rfl
@[simp] theorem State.setSt_inp (b : Byte) : (s.setSt b).inp = s.inp := rfl
@[simp] theorem State.setSt_script (b : Byte) : (s.setSt b).script = s.script := rfl
@[simp] theorem State.setSt_cycleNo (b : Byte) : (s.setSt b).cycleNo = s.cycleNo := rfl
@[simp] theorem State.setSt_display (b : Byte) : (s.setSt b).display = s.display := rfl
@[simp] theorem State.setSt_decodeFail (b : Byte) : (s.setSt b).decodeFail = s.decodeFail := rfl
@[simp] theorem State.setSt_life (b : Byte) : (s.setSt b).life = s.life := rfl

@[simp] theorem State.setFb_V (f : FrameBuffer) : (s.setFb f).V = s.V := rfl
@[simp] theorem State.setFb_pc (f : FrameBuffer) : (s.setFb f).pc = s.pc := rfl
@[simp] theorem State.setFb_I (f : FrameBuffer) : (s.setFb f).I = s.I := rfl
@[simp] theorem State.setFb_sp (f : FrameBuffer) : (s.setFb f).sp = s.sp := rfl
@[simp] theorem State.setFb_stack (f : FrameBuffer) : (s.setFb f).stack = s.stack := rfl
@[simp] theorem State.setFb_dt (f : FrameBuffer) : (s.setFb f).dt = s.dt := rfl
@[simp] theorem State.setFb_st (f : FrameBuffer) : (s.setFb f).st = s.st := rfl
@[simp] theorem State.setFb_fb (f : FrameBuffer) : (s.setFb f).fb = f := rfl
@[simp] theorem State.setFb_mem (f : FrameBuffer) : (s.setFb f).mem = s.mem := rfl
@[simp] theorem State.setFb_fault (f : FrameBuffer) : (s.setFb f).fault = s.fault := rfl
@[simp] theorem State.setFb_inp (f : FrameBuffer) : (s.setFb f).inp = s.inp := rfl
@[simp] theorem State.setFb_script (f : FrameBuffer) : (s.setFb f).script = s.script := rfl
@[simp] theorem State.setFb_cycleNo (f : FrameBuffer) : (s.setFb f).cycleNo = s.cycleNo := rfl
@[simp] theorem State.setFb_display (f : FrameBuffer) : (s.setFb f).display = s.display := rfl
@[simp] theorem State.setFb_decodeFail (f : FrameBuffer) : (s.setFb f).decodeFail = s.decodeFail := rfl
@[simp] theorem State.setFb_life (f : FrameBuffer) : (s.setFb f).life = s.life := rfl

@[simp] theorem State.setMem_V (m : Memory) : (s.setMem m).V = s.V := rfl
@[simp] theorem State.setMem_pc (m : Memory) : (s.setMem m).pc = s.pc := rfl
@[simp] theorem State.setMem_I (m : Memory) : (s.setMem m).I = s.I := rfl
@[simp] theorem State.setMem_sp (m : Memory) : (s.setMem m).sp = s.sp := rfl
@[simp] theorem State.setMem_stack (m : Memory) : (s.setMem m).stack = s.stack := rfl
@[simp] theorem State.setMem_dt (m : Memory) : (s.setMem m).dt = s.dt := rfl
@[simp] theorem State.setMem_st (m : Memory) : (s.setMem m).st = s.st := rfl
@[simp] theorem State.setMem_fb (m : Memory) : (s.setMem m).fb = s.fb := rfl
@[simp] theorem State.setMem_mem (m : Memory) : (s.setMem m).mem = m := rfl
@[simp] theorem State.setMem_fault (m : Memory) : (s.setMem m).fault = s.fault := rfl
@[simp] theorem State.setMem_inp (m : Memory) : (s.setMem m).inp = s.inp := rfl
@[simp] theorem State.setMem_script (m : Memory) : (s.setMem m).script = s.script := rfl
@[simp] theorem State.setMem_cycleNo (m : Memory) : (s.setMem m).cycleNo = s.cycleNo := rfl
@[simp] theorem State.setMem_display (m : Memory) : (s.setMem m).display = s.display := rfl
@[simp] theorem State.setMem_decodeFail (m : Memory) : (s.setMem m).decodeFail = s.decodeFail := rfl
@[simp] theorem State.setMem_life (m : Memory) : (s.setMem m).life = s.life := rfl

@[simp] theorem State.setFault_V (e : FatalError) : (s.setFault e).V = s.V := rfl
@[simp] theorem State.setFault_pc (e : FatalError) : (s.setFault e).pc = s.pc := rfl
@[simp] theorem State.setFault_I (e : FatalError) : (s.setFault e).I = s.I := rfl
@[simp] theorem State.setFault_sp (e : FatalError) : (s.setFault e).sp = s.sp := rfl
@[simp] theorem State.setFault_stack (e : FatalError) : (s.setFault e).stack = s.stack := rfl
@[simp] theorem State.setFault_dt (e : FatalError) : (s.setFault e).dt = s.dt := rfl
@[simp] theorem State.setFault_st (e : FatalError) : (s.setFault e).st = s.st := rfl
@[simp] theorem State.setFault_fb (e : FatalError) : (s.setFault e).fb = s.fb := rfl
@[simp] theorem State.setFault_mem (e : FatalError) : (s.setFault e).mem = s.mem := rfl
@[simp] theorem State.setFault_fault (e : FatalError) : (s.setFault e).fault = e := rfl
@[simp] theorem State.setFault_inp (e : FatalError) : (s.setFault e).inp = s.inp := rfl
@[simp] theorem State.setFault_script (e : FatalError) : (s.setFault e).script = s.script := rfl
@[simp] theorem State.setFault_cycleNo (e : FatalError) : (s.setFault e).cycleNo = s.cycleNo := rfl
@[simp] theorem State.setFault_display (e : FatalError) : (s.setFault e).display = s.display := rfl
@[simp] theorem State.setFault_decodeFail (e : FatalError) : (s.setFault e).decodeFail = s.decodeFail := rfl
@[simp] theorem State.setFault_life (e : FatalError) : (s.setFault e).life = s.life := rfl

@[simp] theorem State.setDisplay_V (e : Option DisplayEvent) : (s.setDisplay e).V = s.V := rfl
@[simp] theorem State.setDisplay_pc (e : Option DisplayEvent) : (s.setDisplay e).pc = s.pc := rfl
@[simp] theorem State.setDisplay_I (e : Option DisplayEvent) : (s.setDisplay e).I = s.I := rfl
@[simp] theorem State.setDisplay_sp (e : Option DisplayEvent) : (s.setDisplay e).sp = s.sp := rfl
@[simp] theorem State.setDisplay_stack (e : Option DisplayEvent) : (s.setDisplay e).stack = s.stack := rfl
@[simp] theorem State.setDisplay_dt (e : Option DisplayEvent) : (s.setDisplay e).dt = s.dt := rfl
@[simp] theorem State.setDisplay_st (e : Option DisplayEvent) : (s.setDisplay e).st = s.st := rfl
@[simp] theorem State.setDisplay_fb (e : Option DisplayEvent) : (s.setDisplay e).fb = s.fb := rfl
@[simp] theorem State.setDisplay_mem (e : Option DisplayEvent) : (s.setDisplay e).mem = s.mem := rfl
@[simp] theorem State.setDisplay_fault (e : Option DisplayEvent) : (s.setDisplay e).fault = s.fault := rfl
@[simp] theorem State.setDisplay_inp (e : Option DisplayEvent) : (s.setDisplay e).inp = s.inp := rfl
@[simp] theorem State.setDisplay_script (e : Option DisplayEvent) : (s.setDisplay e).script = s.script := rfl
@[simp] theorem State.setDisplay_cycleNo (e : Option DisplayEvent) : (s.setDisplay e).cycleNo = s.cycleNo := rfl
@[simp] theorem State.setDisplay_display (e : Option DisplayEvent) : (s.setDisplay e).display = e := rfl
@[simp] theorem State.setDisplay_decodeFail (e : Option DisplayEvent) : (s.setDisplay e).decodeFail = s.decodeFail := rfl
@[simp] theorem State.setDisplay_life (e : Option DisplayEvent) : (s.setDisplay e).life = s.life := rfl

@[simp] theorem State.setDecodeFail_V (b : Bool) : (s.setDecodeFail b).V = s.V := rfl
@[simp] theorem State.setDecodeFail_pc (b : Bool) : (s.setDecodeFail b).pc = s.pc := rfl
@[simp] theorem State.setDecodeFail_I (b : Bool) : (s.setDecodeFail b).I = s.I := rfl
@[simp] theorem State.setDecodeFail_sp (b : Bool) : (s.setDecodeFail b).sp = s.sp := rfl
@[simp] theorem State.setDecodeFail_stack (b : Bool) : (s.setDecodeFail b).stack = s.stack := rfl
@[simp] theorem State.setDecodeFail_dt (b : Bool) : (s.setDecodeFail b).dt = s.dt := rfl
@[simp] theorem State.setDecodeFail_st (b : Bool) : (s.setDecodeFail b).st = s.st := rfl
@[simp] theorem State.setDecodeFail_fb (b : Bool) : (s.setDecodeFail b).fb = s.fb := rfl
@[simp] theorem State.setDecodeFail_mem (b : Bool) : (s.setDecodeFail b).mem = s.mem := rfl
@[simp] theorem State.setDecodeFail_fault (b : Bool) : (s.setDecodeFail b).fault = s.fault := rfl
@[simp] theorem State.setDecodeFail_inp (b : Bool) : (s.setDecodeFail b).inp = s.inp := rfl
@[simp] theorem State.setDecodeFail_script (b : Bool) : (s.setDecodeFail b).script = s.script := rfl
@[simp] theorem State.setDecodeFail_cycleNo (b : Bool) : (s.setDecodeFail b).cycleNo = s.cycleNo := rfl
@[simp] theorem State.setDecodeFail_display (b : Bool) : (s.setDecodeFail b).display = s.display := rfl
@[simp] theorem State.setDecodeFail_decodeFail (b : Bool) : (s.setDecodeFail b).decodeFail = b := rfl
@[simp] theorem State.setDecodeFail_life (b : Bool) : (s.setDecodeFail b).life = s.life := rfl

@[simp] theorem State.setLife_V (l : Lifecycle) : (s.setLife l).V = s.V := rfl
@[simp] theorem State.setLife_pc (l : Lifecycle) : (s.setLife l).pc = s.pc := rfl
@[simp] theorem State.setLife_I (l : Lifecycle) : (s.setLife l).I = s.I := rfl
@[simp] theorem State.setLife_sp (l : Lifecycle) : (s.setLife l).sp = s.sp := rfl
@[simp] theorem State.setLife_stack (l : Lifecycle) : (s.setLife l).stack = s.stack := rfl
@[simp] theorem State.setLife_dt (l : Lifecycle) : (s.setLife l).dt = s.dt := rfl
@[simp] theorem State.setLife_st (l : Lifecycle) : (s.setLife l).st = s.st := rfl
@[simp] theorem State.setLife_fb (l : Lifecycle) : (s.setLife l).fb = s.fb := rfl
@[simp] theorem State.setLife_mem (l : Lifecycle) : (s.setLife l).mem = s.mem := rfl
@[simp] theorem State.setLife_fault (l : Lifecycle) : (s.setLife l).fault = s.fault := rfl
@[simp] theorem State.setLife_inp (l : Lifecycle) : (s.setLife l).inp = s.inp := rfl
@[simp] theorem State.setLife_script (l : Lifecycle) : (s.setLife l).script = s.script := rfl
@[simp] theorem State.setLife_cycleNo (l : Lifecycle) : (s.setLife l).cycleNo = s.cycleNo := rfl
@[simp] theorem State.setLife_display (l : Lifecycle) : (s.setLife l).display = s.display := rfl
@[simp] theorem State.setLife_decodeFail (l : Lifecycle) : (s.setLife l).decodeFail = s.decodeFail := rfl
@[simp] theorem State.setLife_life (l : Lifecycle) : (s.setLife l).life = l := rfl

@[simp] theorem State.setFlag_V (b : Byte) : (s.setFlag b).V = s.V.set vf b := rfl
@[simp] theorem State.setFlag_pc (b : Byte) : (s.setFlag b).pc = s.pc := rfl
@[simp] theorem State.setFlag_I (b : Byte) : (s.setFlag b).I = s.I := rfl
@[simp] theorem State.setFlag_sp (b : Byte) : (s.setFlag b).sp = s.sp := rfl
@[simp] theorem State.setFlag_stack (b : Byte) : (s.setFlag b).stack = s.stack := rfl
@[simp] theorem State.setFlag_dt (b : Byte) : (s.setFlag b).dt = s.dt := rfl
@[simp] theorem State.setFlag_st (b : Byte) : (s.setFlag b).st = s.st := rfl
@[simp] theorem State.setFlag_fb (b : Byte) : (s.setFlag b).fb = s.fb := rfl
@[simp] theorem State.setFlag_mem (b : Byte) : (s.setFlag b).mem = s.mem := rfl
@[simp] theorem State.setFlag_fault (b : Byte) : (s.setFlag b).fault = s.fault := rfl
@[simp] theorem State.setFlag_inp (b : Byte) : (s.setFlag b).inp = s.inp := rfl
@[simp] theorem State.setFlag_script (b : Byte) : (s.setFlag b).script = s.script := rfl
@[simp] theorem State.setFlag_cycleNo (b : Byte) : (s.setFlag b).cycleNo = s.cycleNo := rfl
@[simp] theorem State.setFlag_display (b : Byte) : (s.setFlag b).display = s.display := rfl
@[simp] theorem State.setFlag_decodeFail (b : Byte) : (s.setFlag b).decodeFail = s.decodeFail := rfl
@[simp] theorem State.setFlag_life (b : Byte) : (s.setFlag b).life = s.life := rfl

@[simp] theorem State.advance_V : (s.advance).V = s.V := rfl
@[simp] theorem State.advance_pc : (s.advance).pc = s.pc + 2 := rfl
@[simp] theorem State.advance_I : (s.advance).I = s.I := rfl
@[simp] theorem State.advance_sp : (s.advance).sp = s.sp := rfl
@[simp] theorem State.advance_stack : (s.advance).stack = s.stack := rfl
@[simp] theorem State.advance_dt : (s.advance).dt = s.dt := rfl
@[simp] theorem State.advance_st : (s.advance).st = s.st := rfl
@[simp] theorem State.advance_fb : (s.advance).fb = s.fb := rfl
@[simp] theorem State.advance_mem : (s.advance).mem = s.mem := rfl
@[simp] theorem State.advance_fault : (s.advance).fault = s.fault := rfl
@[simp] theorem State.advance_inp : (s.advance).inp = s.inp := rfl
@[simp] theorem State.advance_script : (s.advance).script = s.script := rfl
@[simp] theorem State.advance_cycleNo : (s.advance).cycleNo = s.cycleNo := rfl
@[simp] theorem State.advance_display : (s.advance).display = s.display := rfl
@[simp] theorem State.advance_decodeFail : (s.advance).decodeFail = s.decodeFail := rfl
@[simp] theorem State.advance_life : (s.advance).life = s.life := rfl

@[simp] theorem State.skipIf_V (b : Bool) : (s.skipIf b).V = s.V := rfl
@[simp] theorem State.skipIf_pc (b : Bool) : (s.skipIf b).pc = if b then s.pc + 4 else s.pc + 2 := rfl
@[simp] theorem State.skipIf_I (b : Bool) : (s.skipIf b).I = s.I := rfl
@[simp] theorem State.skipIf_sp (b : Bool) : (s.skipIf b).sp = s.sp := rfl
@[simp] theorem State.skipIf_stack (b : Bool) : (s.skipIf b).stack = s.stack := rfl
@[simp] theorem State.skipIf_dt (b : Bool) : (s.skipIf b).dt = s.dt := rfl
@[simp] theorem State.skipIf_st (b : Bool) : (s.skipIf b).st = s.st := rfl
@[simp] theorem State.skipIf_fb (b : Bool) : (s.skipIf b).fb = s.fb := rfl
@[simp] theorem State.skipIf_mem (b : Bool) : (s.skipIf b).mem = s.mem := rfl
@[simp] theorem State.skipIf_fault (b : Bool) : (s.skipIf b).fault = s.fault := rfl
@[simp] theorem State.skipIf_inp (b : Bool) : (s.skipIf b).inp = s.inp := rfl
@[simp] theorem State.skipIf_script (b : Bool) : (s.skipIf b).script = s.script := rfl
@[simp] theorem State.skipIf_cycleNo (b : Bool) : (s.skipIf b).cycleNo = s.cycleNo := rfl
@[simp] theorem State.skipIf_display (b : Bool) : (s.skipIf b).display = s.display := rfl
@[simp] theorem State.skipIf_decodeFail (b : Bool) : (s.skipIf b).decodeFail = s.decodeFail := rfl
@[simp] theorem State.skipIf_life (b : Bool) : (s.skipIf b).life = s.life := rfl

@[simp] theorem State.quiet_V : (s.quiet).V = s.V := rfl
@[simp] theorem State.quiet_pc : (s.quiet).pc = s.pc := rfl
@[simp] theorem State.quiet_I : (s.quiet).I = s.I := rfl
@[simp] theorem State.quiet_sp : (s.quiet).sp = s.sp := rfl
@[simp] theorem State.quiet_stack : (s.quiet).stack = s.stack := rfl
@[simp] theorem State.quiet_dt : (s.quiet).dt = s.dt := rfl
@[simp] theorem State.quiet_st : (s.quiet).st = s.st := rfl
@[simp] theorem State.quiet_fb : (s.quiet).fb = s.fb := rfl
@[simp] theorem State.quiet_mem : (s.quiet).mem = s.mem := rfl
@[simp] theorem State.quiet_fault : (s.quiet).fault = s.fault := rfl
@[simp] theorem State.quiet_inp : (s.quiet).inp = s.inp := rfl
@[simp] theorem State.quiet_script : (s.quiet).script = s.script := rfl
@[simp] theorem State.quiet_cycleNo : (s.quiet).cycleNo = s.cycleNo := rfl
@[simp] theorem State.quiet_display : (s.quiet).display = none := rfl
@[simp] theorem State.quiet_decodeFail : (s.quiet).decodeFail = false := rfl
@[simp] theorem State.quiet_life : (s.quiet).life = s.life := rfl

@[simp] theorem State.sample_V : (s.sample).V = s.V := rfl
@[simp] theorem State.sample_pc : (s.sample).pc = s.pc := rfl
@[simp] theorem State.sample_I : (s.sample).I = s.I := rfl
@[simp] theorem State.sample_sp : (s.sample).sp = s.sp := rfl
@[simp] theorem State.sample_stack : (s.sample).stack = s.stack := rfl
@[simp] theorem State.sample_dt : (s.sample).dt = s.dt := rfl
@[simp] theorem State.sample_st : (s.sample).st = s.st := rfl
@[simp] theorem State.sample_fb : (s.sample).fb = s.fb := rfl
@[simp] theorem State.sample_mem : (s.sample).mem = s.mem := rfl
@[simp] theorem State.sample_fault : (s.sample).fault = s.fault := rfl
@[simp] theorem State.sample_inp : (s.sample).inp = s.nextInputs := rfl
@[simp] theorem State.sample_script : (s.sample).script = s.script.tail := rfl
@[simp] theorem State.sample_cycleNo : (s.sample).cycleNo = s.cycleNo + 1 := rfl
@[simp] theorem State.sample_display : (s.sample).display = s.display := rfl
@[simp] theorem State.sample_decodeFail : (s.sample).decodeFail = s.decodeFail := rfl
@[simp] theorem State.sample_life : (s.sample).life = .running := rfl

@[simp] theorem State.drain_V : (s.drain).V = s.V := rfl
@[simp] theorem State.drain_pc : (s.drain).pc = s.pc := rfl
@[simp] theorem State.drain_I : (s.drain).I = s.I := rfl
@[simp] theorem State.drain_sp : (s.drain).sp = s.sp := rfl
@[simp] theorem State.drain_stack : (s.drain).stack = s.stack := rfl
@[simp] theorem State.drain_dt : (s.drain).dt = drainTimer s.dt s.inp.ticks := rfl
@[simp] theorem State.drain_st : (s.drain).st = drainTimer s.st s.inp.ticks := rfl
@[simp] theorem State.drain_fb : (s.drain).fb = s.fb := rfl
@[simp] theorem State.drain_mem : (s.drain).mem = s.mem := rfl
@[simp] theorem State.drain_fault : (s.drain).fault = s.fault := rfl
@[simp] theorem State.drain_inp : (s.drain).inp = s.inp := rfl
@[simp] theorem State.drain_script : (s.drain).script = s.script := rfl
@[simp] theorem State.drain_cycleNo : (s.drain).cycleNo = s.cycleNo := rfl
@[simp] theorem State.drain_display : (s.drain).display = s.display := rfl
@[simp] theorem State.drain_decodeFail : (s.drain).decodeFail = s.decodeFail := rfl
@[simp] theorem State.drain_life : (s.drain).life = s.life := rfl

@[simp] theorem State.beginCycle_V : (s.beginCycle).V = s.V := rfl
@[simp] theorem State.beginCycle_pc : (s.beginCycle).pc = s.pc := rfl
@[simp] theorem State.beginCycle_I : (s.beginCycle).I = s.I := rfl
@[simp] theorem State.beginCycle_sp : (s.beginCycle).sp = s.sp := rfl
@[simp] theorem State.beginCycle_stack : (s.beginCycle).stack = s.stack := rfl
@[simp] theorem State.beginCycle_dt : (s.beginCycle).dt = drainTimer s.dt s.nextInputs.ticks := rfl
@[simp] theorem State.beginCycle_st : (s.beginCycle).st = drainTimer s.st s.nextInputs.ticks := rfl
@[simp] theorem State.beginCycle_fb : (s.beginCycle).fb = s.fb := rfl
@[simp] theorem State.beginCycle_mem : (s.beginCycle).mem = s.mem := rfl
@[simp] theorem State.beginCycle_fault : (s.beginCycle).fault = s.fault := rfl
@[simp] theorem State.beginCycle_inp : (s.beginCycle).inp = s.nextInputs := rfl
@[simp] theorem State.beginCycle_script : (s.beginCycle).script = s.script.tail := rfl
@[simp] theorem State.beginCycle_cycleNo : (s.beginCycle).cycleNo = s.cycleNo + 1 := rfl
@[simp] theorem State.beginCycle_display : (s.beginCycle).display = none := rfl
@[simp] theorem State.beginCycle_decodeFail : (s.beginCycle).decodeFail = false := rfl
@[simp] theorem State.beginCycle_life : (s.beginCycle).life = .running := rfl

@[simp] theorem raise_V (e : FatalError) : (raise e s).V = s.V := rfl
@[simp] theorem raise_pc (e : FatalError) : (raise e s).pc = s.pc := rfl
@[simp] theorem raise_I (e : FatalError) : (raise e s).I = s.I := rfl
@[simp] theorem raise_sp (e : FatalError) : (raise e s).sp = s.sp := rfl
@[simp] theorem raise_stack (e : FatalError) : (raise e s).stack = s.stack := rfl
@[simp] theorem raise_dt (e : FatalError) : (raise e s).dt = s.dt := rfl
@[simp] theorem raise_st (e : FatalError) : (raise e s).st = s.st := rfl
@[simp] theorem raise_fb (e : FatalError) : (raise e s).fb = s.fb := rfl
@[simp] theorem raise_mem (e : FatalError) : (raise e s).mem = s.mem := rfl
@[simp] theorem raise_fault (e : FatalError) : (raise e s).fault = e := rfl
@[simp] theorem raise_inp (e : FatalError) : (raise e s).inp = s.inp := rfl
@[simp] theorem raise_script (e : FatalError) : (raise e s).script = s.script := rfl
@[simp] theorem raise_cycleNo (e : FatalError) : (raise e s).cycleNo = s.cycleNo := rfl
@[simp] theorem raise_display (e : FatalError) : (raise e s).display = none := rfl
@[simp] theorem raise_decodeFail (e : FatalError) : (raise e s).decodeFail = false := rfl
@[simp] theorem raise_life (e : FatalError) : (raise e s).life = s.life := rfl

-- Registers, memory bytes and keys depend on one field each.

@[simp] theorem State.memRead_setV (r : Reg) (b : Byte) (a : Nat) : (s.setV r b).memRead a = s.memRead a := rfl
@[simp] theorem State.memRead_setRegs (bs : List Byte) (a : Nat) : (s.setRegs bs).memRead a = s.memRead a := rfl
@[simp] theorem State.getV_setPc (w : Word) (k : Reg) : (s.setPc w).getV k = s.getV k := rfl
@[simp] theorem State.memRead_setPc (w : Word) (a : Nat) : (s.setPc w).memRead a = s.memRead a := rfl
@[simp] theorem State.getV_setI (w : Word) (k : Reg) : (s.setI w).getV k = s.getV k := rfl
@[simp] theorem State.memRead_setI (w : Word) (a : Nat) : (s.setI w).memRead a = s.memRead a := rfl
@[simp] theorem State.getV_setSp (n : Fin 17) (r : Reg) : (s.setSp n).getV r = s.getV r := rfl
@[simp] theorem State.memRead_setSp (n : Fin 17) (a : Nat) : (s.setSp n).memRead a = s.memRead a := rfl
@[simp] theorem State.getV_setStackEntry (k : Fin 16) (w : Word) (r : Reg) : (s.setStackEntry k w).getV r = s.getV r := rfl
@[simp] theorem State.memRead_setStackEntry (k : Fin 16) (w : Word) (a : Nat) : (s.setStackEntry k w).memRead a = s.memRead a := rfl
@[simp] theorem State.getV_setDt (b : Byte) (k : Reg) : (s.setDt b).getV k = s.getV k := rfl
@[simp] theorem State.memRead_setDt (b : Byte) (a : Nat) : (s.setDt b).memRead a = s.memRead a := rfl
@[simp] theorem State.getV_setSt (b : Byte) (k : Reg) : (s.setSt b).getV k = s.getV k := rfl
@[simp] theorem State.memRead_setSt (b : Byte) (a : Nat) : (s.setSt b).memRead a = s.memRead a := rfl
@[simp] theorem State.getV_setFb (f : FrameBuffer) (k : Reg) : (s.setFb f).getV k = s.getV k := rfl
@[simp] theorem State.memRead_setFb (f : FrameBuffer) (a : Nat) : (s.setFb f).memRead a = s.memRead a := rfl
@[simp] theorem State.getV_setMem (m : Memory) (k : Reg) : (s.setMem m).getV k = s.getV k := rfl
@[simp] theorem State.getV_setFault (e : FatalError) (k : Reg) : (s.setFault e).getV k = s.getV k := rfl
@[simp] theorem State.memRead_setFault (e : FatalError) (a : Nat) : (s.setFault e).memRead a = s.memRead a := rfl
@[simp] theorem State.getV_setDisplay (e : Option DisplayEvent) (k : Reg) : (s.setDisplay e).getV k = s.getV k := rfl
@[simp] theorem State.memRead_setDisplay (e : Option DisplayEvent) (a : Nat) : (s.setDisplay e).memRead a = s.memRead a := rfl
@[simp] theorem State.getV_setDecodeFail (b : Bool) (k : Reg) : (s.setDecodeFail b).getV k = s.getV k := rfl
@[simp] theorem State.memRead_setDecodeFail (b : Bool) (a : Nat) : (s.setDecodeFail b).memRead a = s.memRead a := rfl
@[simp] theorem State.getV_setLife (l : Lifecycle) (k : Reg) : (s.setLife l).getV k = s.getV k := rfl
@[simp] theorem State.memRead_setLife (l : Lifecycle) (a : Nat) : (s.setLife l).memRead a = s.memRead a := rfl
@[simp] theorem State.memRead_setFlag (b : Byte) (a : Nat) : (s.setFlag b).memRead a = s.memRead a := rfl
@[simp] theorem State.getV_advance (k : Reg) : (s.advance).getV k = s.getV k := rfl
@[simp] theorem State.memRead_advance (a : Nat) : (s.advance).memRead a = s.memRead a := rfl
@[simp] theorem State.getV_skipIf (b : Bool) (k : Reg) : (s.skipIf b).getV k = s.getV k := rfl
@[simp] theorem State.memRead_skipIf (b : Bool) (a : Nat) : (s.skipIf b).memRead a = s.memRead a := rfl
@[simp] theorem State.getV_quiet (k : Reg) : (s.quiet).getV k = s.getV k := rfl
@[simp] theorem State.memRead_quiet (a : Nat) : (s.quiet).memRead a = s.memRead a := rfl
@[simp] theorem State.getV_sample (k : Reg) : (s.sample).getV k = s.getV k := rfl
@[simp] theorem State.memRead_sample (a : Nat) : (s.sample).memRead a = s.memRead a := rfl
@[simp] theorem State.getV_drain (k : Reg) : (s.drain).getV k = s.getV k := rfl
@[simp] theorem State.memRead_drain (a : Nat) : (s.drain).memRead a = s.memRead a := rfl
@[simp] theorem State.getV_beginCycle (k : Reg) : (s.beginCycle).getV k = s.getV k := rfl
@[simp] theorem State.memRead_beginCycle (a : Nat) : (s.beginCycle).memRead a = s.memRead a := rfl
@[simp] theorem getV_raise (e : FatalError) (k : Reg) : (raise e s).getV k = s.getV k := rfl
@[simp] theorem memRead_raise (e : FatalError) (a : Nat) : (raise e s).memRead a = s.memRead a := rfl

end Sys2Proof.Machine
end

