-- ==== Sys2Proof/Laws/Ops.lean ====
section
/-! SUPPORT. What each shared operation can do, said once: registers, memory blocks, the stack, the drain, raising. -/

namespace Sys2Proof.Machine

-- Registers.

theorem State.getV_setV (s : State) (r k : Reg) (b : Byte) : (s.setV r b).getV k = if k = r then b else s.getV k := by
  simp only [State.getV, State.setV_V, Fin.getElem_fin, Vector.getElem_set]
  by_cases h : k = r
  · simp [h]
  · have hv : ¬ r.val = k.val := fun e => h (Fin.ext e.symm)
    simp [h, hv]

@[simp] theorem State.getV_setV_same (s : State) (r : Reg) (b : Byte) : (s.setV r b).getV r = b := by
  simp [State.getV_setV]

theorem State.getV_setV_ne (s : State) {r k : Reg} (b : Byte) (h : k ≠ r) : (s.setV r b).getV k = s.getV k := by
  simp [State.getV_setV, h]

theorem State.getV_setFlag (s : State) (k : Reg) (b : Byte) : (s.setFlag b).getV k = if k = vf then b else s.getV k :=
  State.getV_setV s vf k b

@[simp] theorem State.getV_setRegs (s : State) (bs : List Byte) (k : Reg) :
    (s.setRegs bs).getV k = bs.getD k.val (s.getV k) := by
  simp [State.getV]

/-- What `resultThenFlag`'s two writes leave in a register. -/
theorem State.getV_setV_setFlag (s : State) (x k : Reg) (r f : Byte) :
    ((s.setV x r).setFlag f).getV k = if k = vf then f else if k = x then r else s.getV k := by
  rw [State.getV_setFlag, State.getV_setV]

/-- What `flagThenResult`'s two writes leave in a register. -/
theorem State.getV_setFlag_setV (s : State) (x k : Reg) (r f : Byte) :
    ((s.setFlag f).setV x r).getV k = if k = x then r else if k = vf then f else s.getV k := by
  rw [State.getV_setV, State.getV_setFlag]

-- Memory accesses.

theorem State.memRead_of_lt (s : State) {a : Nat} (h : a < Config.memSize) : s.memRead a = some (s.mem.read a) := by
  simp [State.memRead, h]

theorem State.memRead_of_le (s : State) {a : Nat} (h : Config.memSize ≤ a) : s.memRead a = none := by
  simp [State.memRead, Nat.not_lt.2 h]

/-- Reading a byte in a state whose memory was replaced. -/
theorem State.memRead_setMem (s : State) (m : Memory) (a : Nat) :
    (s.setMem m).memRead a = if a < Config.memSize then some (m.read a) else none := rfl

/-- Everything `loadBlock` can do: the bytes in ascending order if the block is empty or ends within memory, else none. -/
theorem State.loadBlock_eq (s : State) (a n : Nat) :
    s.loadBlock a n = if n = 0 ∨ a + n ≤ Config.memSize then some ((List.range' a n).map s.mem.read) else none := by
  induction n generalizing a with
  | zero => simp [State.loadBlock]
  | succ n ih =>
    rw [State.loadBlock, ih]
    by_cases ha : a < Config.memSize
    · rw [State.memRead_of_lt s ha]
      by_cases hn : n = 0 ∨ a + 1 + n ≤ Config.memSize
      · rw [if_pos hn, if_pos (by omega)]
        simp [List.range'_succ]
      · rw [if_neg hn, if_neg (by omega)]
    · rw [State.memRead_of_le s (Nat.not_lt.1 ha), if_neg (c := n + 1 = 0 ∨ a + (n + 1) ≤ Config.memSize) (by omega)]

theorem State.loadBlock_of_le (s : State) {a n : Nat} (h : a + n ≤ Config.memSize) :
    s.loadBlock a n = some ((List.range' a n).map s.mem.read) := by
  rw [State.loadBlock_eq, if_pos (Or.inr h)]

theorem State.loadBlock_of_gt (s : State) {a n : Nat} (hn : n ≠ 0) (h : Config.memSize < a + n) : s.loadBlock a n = none := by
  rw [State.loadBlock_eq, if_neg (by omega)]

/-- Everything `storeBlock` can do where the block ends within memory: one memory changes, the stored bytes stand at their addresses,
every other byte reads as before, and the canonical form is kept. -/
theorem State.storeBlock_of_le (s : State) (a : Nat) (bs : List Byte) (h : bs = [] ∨ a + bs.length ≤ Config.memSize) :
    ∃ m : Memory, s.storeBlock a bs = some (s.setMem m) ∧
      (∀ k, m.read k = if a ≤ k ∧ k < a + bs.length then bs.getD (k - a) 0 else s.mem.read k) ∧
      (s.mem.wf = true → m.wf = true) := by
  induction bs generalizing s a with
  | nil => exact ⟨s.mem, rfl, fun k => by rw [if_neg (by simp)], id⟩
  | cons b bs ih =>
    have hlen : a + (bs.length + 1) ≤ Config.memSize := by simpa using h
    have ha : a < Config.memSize := by omega
    obtain ⟨m, hm, hr, hw⟩ := ih (s.setMem (s.mem.write a b)) (a + 1) (by right; omega)
    refine ⟨m, ?_, fun k => ?_, fun hwf => hw (Memory.wf_write s.mem a b ha hwf)⟩
    · simp only [State.storeBlock, State.memWrite, ha, if_true]
      rw [hm]
      rfl
    · rw [hr k, State.setMem_mem, Memory.read_write, List.length_cons]
      by_cases hk : k = a
      · rw [if_neg (by omega), if_pos hk, if_pos (by omega), hk]
        simp
      · by_cases hin : a + 1 ≤ k ∧ k < a + 1 + bs.length
        · rw [if_pos hin, if_pos (by omega)]
          obtain ⟨j, rfl⟩ : ∃ j, k = a + 1 + j := ⟨k - (a + 1), by omega⟩
          rw [show a + 1 + j - (a + 1) = j by omega, show a + 1 + j - a = j + 1 by omega, List.getD_cons_succ]
        · rw [if_neg hin, if_neg hk, if_neg (by omega)]

/-- A block that does not end within memory is not stored. -/
theorem State.storeBlock_of_gt (s : State) (a : Nat) (bs : List Byte) (hne : bs ≠ []) (h : Config.memSize < a + bs.length) :
    s.storeBlock a bs = none := by
  induction bs generalizing s a with
  | nil => exact absurd rfl hne
  | cons b bs ih =>
    simp only [List.length_cons] at h
    simp only [State.storeBlock, State.memWrite]
    by_cases ha : a < Config.memSize
    · simp only [ha, if_true]
      exact ih _ (a + 1) (fun e => by subst e; simp at h; omega) (by omega)
    · simp only [ha, if_false]

-- The stack.

theorem State.push_of_lt (s : State) (w : Word) (k : Fin 16) (h : s.sp.val = k.val) :
    s.push w = some ((s.setStackEntry k w).setSp k.succ) := by
  have hk : s.sp = ⟨k.val, by omega⟩ := Fin.ext h
  simp [State.push, hk, Config.stackDepth]
  rfl

theorem State.push_of_full (s : State) (w : Word) (h : s.sp.val = 16) : s.push w = none := by
  simp [State.push, h, Config.stackDepth]

theorem State.pop_of_empty (s : State) (h : s.sp.val = 0) : s.pop = none := by
  have hs : s.sp = ⟨0, by omega⟩ := Fin.ext h
  simp [State.pop, hs]

theorem State.pop_of_pos (s : State) (k : Fin 16) (h : s.sp.val = k.val + 1) :
    s.pop = some (s.stack[k], s.setSp k.castSucc) := by
  have hs : s.sp = ⟨k.val + 1, by omega⟩ := Fin.ext h
  simp [State.pop, hs]
  rfl

/-- A stack entry after one was written. -/
theorem State.setStackEntry_get (s : State) (k j : Fin 16) (w : Word) :
    (s.setStackEntry k w).stack[j] = if j = k then w else s.stack[j] := by
  simp only [State.setStackEntry_stack, Fin.getElem_fin, Vector.getElem_set]
  by_cases h : j = k
  · simp [h]
  · have hv : ¬ k.val = j.val := fun e => h (Fin.ext e.symm)
    simp [h, hv]

-- The drain.

/-- The rule of the drain on mathematical integers (R121). -/
theorem drainTimer_toNat (t : Byte) (k : Nat) : (drainTimer t k).toNat = t.toNat - k := by
  unfold drainTimer
  split
  · simp_all
  · rw [BitVec.toNat_ofNat, Nat.mod_eq_of_lt (by have := t.isLt; omega)]

-- Raising.

/-- What an instruction that may raise answers: what it computed, or the state after raising; always a next state. -/
theorem State.orRaise_some (s : State) (e : FatalError) (t : State) : s.orRaise e (some t) = .next t := rfl

theorem State.orRaise_none (s : State) (e : FatalError) : s.orRaise e none = .next (raise e s) := rfl

-- The start of a cycle.

/-- The inputs of the last cycle and its outputs do not reach the next one. -/
theorem State.beginCycle_eq (s : State) (i : Inputs) (d : Option DisplayEvent) (b : Bool) :
    ({ s with inp := i, display := d, decodeFail := b } : State).beginCycle = s.beginCycle := rfl

-- The fetch.

/-- Where both bytes exist the fetch is the decoding of the word they make, high byte first. -/
theorem State.fetchDecode_of_lt (s : State) (h : s.pc.toNat + 1 < Config.memSize) :
    s.fetchDecode = match decode (wordOfBytes (s.mem.read s.pc.toNat) (s.mem.read (s.pc.toNat + 1))) with
      | .ok i => .instr i
      | .error _ => .unknown := by
  simp only [State.fetchDecode]
  rw [State.loadBlock_of_le s (by omega)]
  simp only [List.range'_succ, List.range'_zero, List.map_cons, List.map_nil, decodeBytes]
  cases decode (wordOfBytes (s.mem.read s.pc.toNat) (s.mem.read (s.pc.toNat + 1))) <;> rfl

theorem State.fetchDecode_of_ge (s : State) (h : Config.memSize ≤ s.pc.toNat + 1) : s.fetchDecode = .outOfBounds := by
  simp only [State.fetchDecode]
  rw [State.loadBlock_of_gt s (by decide) (by omega)]

end Sys2Proof.Machine
end

