-- ==== Sys2Proof/Laws/Frame.lean ====
section
/-! SUPPORT. What the common shapes of a next state leave unchanged, in the terms of Safety.lean: once per shape, for every
instruction of that shape. -/

namespace Sys2Proof.Machine

/-- What raising a fatal error leaves (R243). -/
theorem raisedFrom_raise (e : FatalError) (s : State) : RaisedFrom e s (raise e s) := by
  simp [RaisedFrom, SameCore, SameHost, NoOutput]

/-- Nothing but `pc` is written: the jumps, the skips, the no-ops. -/
theorem frame_setPc (s : State) (w : Word) : Frame [] s (s.setPc w) :=
  ⟨fun p _ => by cases p <;> simp [Piece.same], by simp, by simp [SameHost]⟩

/-- One register and `pc` are written. -/
theorem frame_setV (s : State) (x : Reg) (b : Byte) (w : Word) : Frame [.regs] s ((s.setV x b).setPc w) :=
  ⟨fun p hp => by cases p <;> first | (simp at hp; done) | simp [Piece.same], by simp, by simp [SameHost]⟩

/-- The shape of every instruction that only writes a register: it writes that one and advances `pc`. -/
theorem writesOnly_setV (s : State) (x : Reg) (b : Byte) : WritesOnly x b s (s.setV x b).advance :=
  ⟨by simp, fun r hr => by simp [State.getV_setV, hr], by simp, frame_setV s x b _⟩

/-- A block of registers and `pc` are written. -/
theorem frame_setRegs (s : State) (bs : List Byte) : Frame [.regs] s (s.setRegs bs).advance :=
  ⟨fun p hp => by cases p <;> first | (simp at hp; done) | simp [Piece.same], by simp, by simp [SameHost]⟩

/-- The memory and `pc` are written. -/
theorem frame_setMem (s : State) (m : Memory) : Frame [.memory] s (s.setMem m).advance :=
  ⟨fun p hp => by cases p <;> first | (simp at hp; done) | simp [Piece.same], by simp, by simp [SameHost]⟩

/-- The stack and `pc` are written: what a push and a jump leave. -/
theorem frame_push (s : State) (k : Fin 16) (w : Word) (n : Fin 17) (p : Word) :
    Frame [.stack] s (((s.setStackEntry k w).setSp n).setPc p) :=
  ⟨fun q hq => by cases q <;> first | (simp at hq; done) | simp [Piece.same], by simp, by simp [SameHost]⟩

/-- The stack pointer and `pc` are written: what a pop leaves. -/
theorem frame_pop (s : State) (n : Fin 17) (p : Word) : Frame [.stack] s ((s.setSp n).setPc p) :=
  ⟨fun q hq => by cases q <;> first | (simp at hq; done) | simp [Piece.same], by simp, by simp [SameHost]⟩

/-- What `resultThenFlag` leaves with a destination other than VF. -/
theorem State.resultThenFlag_spec (s : State) (x : Reg) (r f : Byte) (hx : x ≠ 15) :
    (s.resultThenFlag x r f).getV x = r ∧ (s.resultThenFlag x r f).getV 15 = f ∧ (s.resultThenFlag x r f).pc = s.pc + 2 ∧
    Frame [.regs] s (s.resultThenFlag x r f) ∧ ∀ k, k ≠ x → k ≠ 15 → (s.resultThenFlag x r f).getV k = s.getV k := by
  refine ⟨?_, ?_, by simp [State.resultThenFlag], ⟨fun p hp => ?_, by simp [State.resultThenFlag],
    by simp [SameHost, State.resultThenFlag]⟩, fun k h1 h2 => ?_⟩
  · simp [State.resultThenFlag, State.getV_setV_setFlag, vf, hx]
  · simp [State.resultThenFlag, State.getV_setV_setFlag, vf]
  · cases p <;> first | (simp at hp; done) | simp [Piece.same, State.resultThenFlag]
  · simp [State.resultThenFlag, State.getV_setV_setFlag, vf, h1, h2]

/-- What `flagThenResult` leaves with a destination other than VF. -/
theorem State.flagThenResult_spec (s : State) (x : Reg) (r f : Byte) (hx : x ≠ 15) :
    (s.flagThenResult x f r).getV x = r ∧ (s.flagThenResult x f r).getV 15 = f ∧ (s.flagThenResult x f r).pc = s.pc + 2 ∧
    Frame [.regs] s (s.flagThenResult x f r) ∧ ∀ k, k ≠ x → k ≠ 15 → (s.flagThenResult x f r).getV k = s.getV k := by
  have hx' : ¬ (15 : Reg) = x := fun e => hx e.symm
  refine ⟨?_, ?_, by simp [State.flagThenResult], ⟨fun p hp => ?_, by simp [State.flagThenResult],
    by simp [SameHost, State.flagThenResult]⟩, fun k h1 h2 => ?_⟩
  · simp [State.flagThenResult]
  · simp [State.flagThenResult, State.getV_setFlag_setV, vf, hx']
  · cases p <;> first | (simp at hp; done) | simp [Piece.same, State.flagThenResult]
  · simp [State.flagThenResult, State.getV_setFlag_setV, vf, h1, h2]

/-- The block of registers V[0] to V[x]: its length. -/
theorem State.regBlock_length (s : State) (x : Reg) : (s.regBlock x).length = x.val + 1 := by
  simp [State.regBlock, blockLen]

/-- The block of registers V[0] to V[x]: its bytes. -/
theorem State.regBlock_getD (s : State) (x k : Reg) (h : k.val ≤ x.val) : (s.regBlock x).getD k.val 0 = s.getV k := by
  rw [List.getD_eq_getElem _ _ (by rw [State.regBlock_length]; omega)]
  simp [State.regBlock, State.getV]

theorem addrWord_toNat (a : Addr) : (addrWord a).toNat = a.toNat := by simp [addrWord]; omega

theorem zext16_toNat (b : Byte) : (zext16 b).toNat = b.toNat := by simp [zext16]; omega

/-- A key code in a register that names an existing key. -/
theorem State.keyDown_of_lt (s : State) (b : Byte) (k : KeyCode) (h : b.toNat = k.val) : s.keyDown b = s.inp.keys[k] := by
  simp [State.keyDown, h]

end Sys2Proof.Machine
end

