-- ==== Sys2Proof/Laws/PerInstr.lean ====
section
/-! SUPPORT. Statements made per instruction form. TableRow: the word the encoder gives a form satisfies the condition of the
form's own row of the opcode table (spec/30_encoding.md R97). -/

namespace Sys2Proof.Laws.TableRow

/-- The row of the form's own name matches its word: `(word AND mask) = match` (R97). -/
def Statement (i : Instr) : Prop := ∃ r ∈ opcodeTable, r.mnemonic = i.mnemonic ∧ encode i &&& r.mask = r.pattern

/-- A row is shown by its place in the table and the numbers of its condition. -/
theorem of_row (i : Instr) (r : OpcodeRow) (hr : r ∈ opcodeTable) (hm : r.mnemonic = i.mnemonic)
    (h : (encode i &&& r.mask).toNat = r.pattern.toNat) : Statement i :=
  ⟨r, hr, hm, BitVec.eq_of_toNat_eq h⟩

theorem clear : Statement (.clear) :=
  of_row _ ⟨"Clear", 0x00E0, 0xFFFF⟩ (by decide) rfl rfl

theorem ret : Statement (.ret) :=
  of_row _ ⟨"Return", 0x00EE, 0xFFFF⟩ (by decide) rfl rfl

theorem sys (nnn : Addr) : Statement (.sys nnn) :=
  of_row _ ⟨"SYS", 0x0000, 0xF000⟩ (by decide) rfl <| by
    simp only [encode]
    rw [and_F000, toNat_packNNN]
    simp
    omega

theorem jump (nnn : Addr) : Statement (.jump nnn) :=
  of_row _ ⟨"Jump", 0x1000, 0xF000⟩ (by decide) rfl <| by
    simp only [encode]
    rw [and_F000, toNat_packNNN]
    simp
    omega

theorem call (nnn : Addr) : Statement (.call nnn) :=
  of_row _ ⟨"Call", 0x2000, 0xF000⟩ (by decide) rfl <| by
    simp only [encode]
    rw [and_F000, toNat_packNNN]
    simp
    omega

theorem skipEqI (x : Reg) (kk : Byte) : Statement (.skipEqI x kk) :=
  of_row _ ⟨"SkipEqI", 0x3000, 0xF000⟩ (by decide) rfl <| by
    simp only [encode]
    rw [and_F000, toNat_packXKK]
    simp
    omega

theorem skipNeqI (x : Reg) (kk : Byte) : Statement (.skipNeqI x kk) :=
  of_row _ ⟨"SkipNeqI", 0x4000, 0xF000⟩ (by decide) rfl <| by
    simp only [encode]
    rw [and_F000, toNat_packXKK]
    simp
    omega

theorem skipEq (x y : Reg) : Statement (.skipEq x y) :=
  of_row _ ⟨"SkipEq", 0x5000, 0xF000⟩ (by decide) rfl <| by
    simp only [encode]
    rw [and_F000, toNat_packXYN]
    simp
    omega

theorem loadI (x : Reg) (kk : Byte) : Statement (.loadI x kk) :=
  of_row _ ⟨"LoadI", 0x6000, 0xF000⟩ (by decide) rfl <| by
    simp only [encode]
    rw [and_F000, toNat_packXKK]
    simp
    omega

theorem addI (x : Reg) (kk : Byte) : Statement (.addI x kk) :=
  of_row _ ⟨"AddI", 0x7000, 0xF000⟩ (by decide) rfl <| by
    simp only [encode]
    rw [and_F000, toNat_packXKK]
    simp
    omega

theorem loadR (x y : Reg) : Statement (.loadR x y) :=
  of_row _ ⟨"LoadR", 0x8000, 0xF00F⟩ (by decide) rfl <| by
    simp only [encode]
    rw [and_F00F, toNat_packXYN]
    simp
    omega

theorem or (x y : Reg) : Statement (.or x y) :=
  of_row _ ⟨"Or", 0x8001, 0xF00F⟩ (by decide) rfl <| by
    simp only [encode]
    rw [and_F00F, toNat_packXYN]
    simp
    omega

theorem and (x y : Reg) : Statement (.and x y) :=
  of_row _ ⟨"And", 0x8002, 0xF00F⟩ (by decide) rfl <| by
    simp only [encode]
    rw [and_F00F, toNat_packXYN]
    simp
    omega

theorem xor (x y : Reg) : Statement (.xor x y) :=
  of_row _ ⟨"Xor", 0x8003, 0xF00F⟩ (by decide) rfl <| by
    simp only [encode]
    rw [and_F00F, toNat_packXYN]
    simp
    omega

theorem add (x y : Reg) : Statement (.add x y) :=
  of_row _ ⟨"Add", 0x8004, 0xF00F⟩ (by decide) rfl <| by
    simp only [encode]
    rw [and_F00F, toNat_packXYN]
    simp
    omega

theorem sub (x y : Reg) : Statement (.sub x y) :=
  of_row _ ⟨"Sub", 0x8005, 0xF00F⟩ (by decide) rfl <| by
    simp only [encode]
    rw [and_F00F, toNat_packXYN]
    simp
    omega

theorem shiftR (x : Reg) : Statement (.shiftR x) :=
  of_row _ ⟨"ShiftR", 0x8006, 0xF00F⟩ (by decide) rfl <| by
    simp only [encode]
    rw [and_F00F, toNat_packXYN]
    simp
    omega

theorem subN (x y : Reg) : Statement (.subN x y) :=
  of_row _ ⟨"SubN", 0x8007, 0xF00F⟩ (by decide) rfl <| by
    simp only [encode]
    rw [and_F00F, toNat_packXYN]
    simp
    omega

theorem shiftL (x : Reg) : Statement (.shiftL x) :=
  of_row _ ⟨"ShiftL", 0x800E, 0xF00F⟩ (by decide) rfl <| by
    simp only [encode]
    rw [and_F00F, toNat_packXYN]
    simp
    omega

theorem skipNeq (x y : Reg) : Statement (.skipNeq x y) :=
  of_row _ ⟨"SkipNeq", 0x9000, 0xF00F⟩ (by decide) rfl <| by
    simp only [encode]
    rw [and_F00F, toNat_packXYN]
    simp
    omega

theorem loadIdx (nnn : Addr) : Statement (.loadIdx nnn) :=
  of_row _ ⟨"LoadIdx", 0xA000, 0xF000⟩ (by decide) rfl <| by
    simp only [encode]
    rw [and_F000, toNat_packNNN]
    simp
    omega

theorem jumpAddV0 (nnn : Addr) : Statement (.jumpAddV0 nnn) :=
  of_row _ ⟨"JumpAddV0", 0xB000, 0xF000⟩ (by decide) rfl <| by
    simp only [encode]
    rw [and_F000, toNat_packNNN]
    simp
    omega

theorem rand (x : Reg) (kk : Byte) : Statement (.rand x kk) :=
  of_row _ ⟨"Rand", 0xC000, 0xF000⟩ (by decide) rfl <| by
    simp only [encode]
    rw [and_F000, toNat_packXKK]
    simp
    omega

theorem draw (x y : Reg) (n : Nibble) : Statement (.draw x y n) :=
  of_row _ ⟨"Draw", 0xD000, 0xF000⟩ (by decide) rfl <| by
    simp only [encode]
    rw [and_F000, toNat_packXYN]
    simp
    omega

theorem skipEqKey (x : Reg) : Statement (.skipEqKey x) :=
  of_row _ ⟨"SkipEqKey", 0xE09E, 0xF0FF⟩ (by decide) rfl <| by
    simp only [encode]
    rw [and_F0FF, toNat_packXKK]
    simp
    omega

theorem skipNeqKey (x : Reg) : Statement (.skipNeqKey x) :=
  of_row _ ⟨"SkipNeqKey", 0xE0A1, 0xF0FF⟩ (by decide) rfl <| by
    simp only [encode]
    rw [and_F0FF, toNat_packXKK]
    simp
    omega

theorem loadFromDT (x : Reg) : Statement (.loadFromDT x) :=
  of_row _ ⟨"LoadFromDT", 0xF007, 0xF0FF⟩ (by decide) rfl <| by
    simp only [encode]
    rw [and_F0FF, toNat_packXKK]
    simp
    omega

theorem loadKey (x : Reg) : Statement (.loadKey x) :=
  of_row _ ⟨"LoadKey", 0xF00A, 0xF0FF⟩ (by decide) rfl <| by
    simp only [encode]
    rw [and_F0FF, toNat_packXKK]
    simp
    omega

theorem setDT (x : Reg) : Statement (.setDT x) :=
  of_row _ ⟨"SetDT", 0xF015, 0xF0FF⟩ (by decide) rfl <| by
    simp only [encode]
    rw [and_F0FF, toNat_packXKK]
    simp
    omega

theorem setST (x : Reg) : Statement (.setST x) :=
  of_row _ ⟨"SetST", 0xF018, 0xF0FF⟩ (by decide) rfl <| by
    simp only [encode]
    rw [and_F0FF, toNat_packXKK]
    simp
    omega

theorem addIdx (x : Reg) : Statement (.addIdx x) :=
  of_row _ ⟨"AddIdx", 0xF01E, 0xF0FF⟩ (by decide) rfl <| by
    simp only [encode]
    rw [and_F0FF, toNat_packXKK]
    simp
    omega

theorem loadSprite (x : Reg) : Statement (.loadSprite x) :=
  of_row _ ⟨"LoadSprite", 0xF029, 0xF0FF⟩ (by decide) rfl <| by
    simp only [encode]
    rw [and_F0FF, toNat_packXKK]
    simp
    omega

theorem loadBCD (x : Reg) : Statement (.loadBCD x) :=
  of_row _ ⟨"LoadBCD", 0xF033, 0xF0FF⟩ (by decide) rfl <| by
    simp only [encode]
    rw [and_F0FF, toNat_packXKK]
    simp
    omega

theorem storeRegs (x : Reg) : Statement (.storeRegs x) :=
  of_row _ ⟨"StoreRegs", 0xF055, 0xF0FF⟩ (by decide) rfl <| by
    simp only [encode]
    rw [and_F0FF, toNat_packXKK]
    simp
    omega

theorem readRegs (x : Reg) : Statement (.readRegs x) :=
  of_row _ ⟨"ReadRegs", 0xF065, 0xF0FF⟩ (by decide) rfl <| by
    simp only [encode]
    rw [and_F0FF, toNat_packXKK]
    simp
    omega

end Sys2Proof.Laws.TableRow
end

