-- ==== Sys2Proof/Laws/Step.lean ====
section
/-! SUPPORT. The step and runs of steps: the two ways a cycle can go, and a run cut after its first cycles. -/

namespace Sys2Proof.Machine

/-- A cycle of a machine that has not faulted (R120). -/
theorem step_of_running (s : State) (h : s.fault = .none) : step s = match s.beginCycle.fetchDecode with
    | .instr i => exec i s.beginCycle
    | .unknown => execUnknownOpcode s.beginCycle
    | .outOfBounds => .next (raise .outOfBoundsMemoryAccess s.beginCycle) := by
  have hh : ¬ s.halted = true := by simp [State.halted, h]
  exact if_neg hh

/-- A cycle of a faulted machine (R128). -/
theorem step_of_halted (s : State) (h : s.fault ≠ .none) : step s = .next s.quiet := by
  have hh : s.halted = true := by simp [State.halted, h]
  exact if_pos hh

/-- A byte that can be read lies below 4096 and is the memory's byte. -/
theorem State.of_memRead_some {s : State} {a : Nat} {b : Byte} (h : s.memRead a = some b) :
    a < Config.memSize ∧ s.mem.read a = b := by
  by_cases ha : a < Config.memSize
  · rw [State.memRead_of_lt s ha] at h
    exact ⟨ha, Option.some.inj h⟩
  · rw [State.memRead_of_le s (Nat.not_lt.1 ha)] at h
    cases h

/-- What the fetch finds where both bytes at `pc` exist (R67, R122). -/
theorem State.fetchDecode_of_bytes (s : State) (hi lo : Byte) (h1 : s.memRead s.pc.toNat = some hi)
    (h2 : s.memRead (s.pc.toNat + 1) = some lo) :
    s.fetchDecode = match decode (hi ++ lo) with
      | .ok i => .instr i
      | .error _ => .unknown := by
  obtain ⟨_, rfl⟩ := State.of_memRead_some h1
  obtain ⟨hb, rfl⟩ := State.of_memRead_some h2
  rw [State.fetchDecode_of_lt s hb]
  rfl

/-- The same in the state in which a cycle fetches: the start of a cycle touches neither `pc` nor memory. -/
theorem State.beginCycle_fetchDecode_of_bytes (s : State) (hi lo : Byte) (h1 : s.memRead s.pc.toNat = some hi)
    (h2 : s.memRead (s.pc.toNat + 1) = some lo) :
    s.beginCycle.fetchDecode = match decode (hi ++ lo) with
      | .ok i => .instr i
      | .error _ => .unknown :=
  State.fetchDecode_of_bytes s.beginCycle hi lo h1 h2

/-- A run is its first step and the rest. -/
theorem run_succ (k : Nat) (s t : State) (h : step s = .next t) : Host.Core.run core (k + 1) s = Host.Core.run core k t := by
  have h' : core.step s = .next t := h
  simp only [Host.Core.run]
  split
  · rename_i e
    rw [h'] at e
    cases e
    rfl
  · rename_i e
    rw [h'] at e
    cases e
  · rename_i e
    rw [h'] at e
    cases e

end Sys2Proof.Machine
end

