-- ==== Sys2Proof/Tests/Slice0.lean ====
section
/-! SUPPORT. Tests of the model and witnesses of the statements. Every expected value is a vector V<n> or an example S<n> of
spec/95_test_vectors.md, or a word written out from the patterns of spec/30_encoding.md R97; each test is one step. A witness names
values that meet the hypotheses of a statement, at the edge of their range, one for each of its clauses. -/

namespace Sys2Proof.Tests

open Sys2Proof.Machine

/-- The reset state with idle inputs for the next two cycles (the conventions of spec/95_test_vectors.md). -/
def start : State := { State.reset with script := [Inputs.idle, Inputs.idle] }

/-- The same with other inputs for the next two cycles. -/
def startWith (i : Inputs) : State := { State.reset with script := [i, i] }

/-- The state with some registers set. -/
def regs (s : State) (l : List (Reg × Byte)) : State := l.foldl (fun t p => t.setV p.1 p.2) s

/-- The state with bytes stored from `a` upward. -/
def poke (s : State) (a : Nat) (bs : List Byte) : State := (s.storeBlock a bs).getD s

/-- The state with `n` stack entries in use, every entry `w`. -/
def stacked (s : State) (n : Fin 17) (w : Word) : State := { s with sp := n, stack := Vector.replicate 16 w }

/-- The next state after one step with the word placed at `pc`; none where there is none. -/
def after (w : Nat) (s : State) : Option State :=
  match step (s.withFetchWord 16 w) with
  | .next t => some t
  | .fault _ => none
  | .refused _ => none

-- Ill-formed instructions: one for each word SYS excludes (R94, R97).

theorem test_sys_0E0_ill_formed : (Instr.sys 0x0E0).wellFormed = false := by decide
theorem test_sys_0EE_ill_formed : (Instr.sys 0x0EE).wellFormed = false := by decide
theorem test_sys_neighbours_well_formed : (Instr.sys 0x0E1).wellFormed = true ∧ (Instr.sys 0x0ED).wellFormed = true := by decide

-- Decoding, family by family (V1 to V50).

theorem test_decode_family_0 : decode 0x00E0 = .ok .clear ∧ decode 0x00EE = .ok .ret ∧ decode 0x0000 = .ok (.sys 0x000) ∧
    decode 0x00E1 = .ok (.sys 0x0E1) ∧ decode 0x00FE = .ok (.sys 0x0FE) ∧ decode 0x0FFF = .ok (.sys 0xFFF) := by decide
theorem test_decode_jumps : decode 0x1ABC = .ok (.jump 0xABC) ∧ decode 0x2FFF = .ok (.call 0xFFF) ∧
    decode 0xB300 = .ok (.jumpAddV0 0x300) := by decide
theorem test_decode_skips : decode 0x3A42 = .ok (.skipEqI 10 0x42) ∧ decode 0x4B00 = .ok (.skipNeqI 11 0x00) ∧
    decode 0x5120 = .ok (.skipEq 1 2) ∧ decode 0x512F = .ok (.skipEq 1 2) ∧ decode 0x9CD0 = .ok (.skipNeq 12 13) ∧
    decode 0x9CD1 = .error .unknownOpcode := by decide
theorem test_decode_immediates : decode 0x6C7F = .ok (.loadI 12 0x7F) ∧ decode 0x7001 = .ok (.addI 0 0x01) ∧
    decode 0xA123 = .ok (.loadIdx 0x123) ∧ decode 0xC50F = .ok (.rand 5 0x0F) := by decide
theorem test_decode_family_8 : decode 0x8AB0 = .ok (.loadR 10 11) ∧ decode 0x8AB1 = .ok (.or 10 11) ∧
    decode 0x8AB2 = .ok (.and 10 11) ∧ decode 0x8AB3 = .ok (.xor 10 11) ∧ decode 0x8AB4 = .ok (.add 10 11) ∧
    decode 0x8AB5 = .ok (.sub 10 11) ∧ decode 0x8AB6 = .ok (.shiftR 10) ∧ decode 0x8AB7 = .ok (.subN 10 11) ∧
    decode 0x8ABE = .ok (.shiftL 10) ∧ decode 0x8AB8 = .error .unknownOpcode ∧ decode 0x8ABF = .error .unknownOpcode := by decide
theorem test_decode_draw_and_keys : decode 0xD12F = .ok (.draw 1 2 15) ∧ decode 0xD120 = .ok (.draw 1 2 0) ∧
    decode 0xE39E = .ok (.skipEqKey 3) ∧ decode 0xE3A1 = .ok (.skipNeqKey 3) ∧ decode 0xE300 = .error .unknownOpcode ∧
    decode 0xE39F = .error .unknownOpcode := by decide
theorem test_decode_family_F : decode 0xF407 = .ok (.loadFromDT 4) ∧ decode 0xF40A = .ok (.loadKey 4) ∧
    decode 0xF415 = .ok (.setDT 4) ∧ decode 0xF418 = .ok (.setST 4) ∧ decode 0xF41E = .ok (.addIdx 4) ∧
    decode 0xF429 = .ok (.loadSprite 4) ∧ decode 0xF433 = .ok (.loadBCD 4) ∧ decode 0xF455 = .ok (.storeRegs 4) ∧
    decode 0xF465 = .ok (.readRegs 4) := by decide
theorem test_decode_family_F_unknown : decode 0xF400 = .error .unknownOpcode ∧ decode 0xF4FF = .error .unknownOpcode ∧
    decode 0xF075 = .error .unknownOpcode ∧ decode 0xF085 = .error .unknownOpcode ∧ decode 0xFFFF = .error .unknownOpcode := by decide
theorem test_encode_words : encode (.add 10 11) = 0x8AB4 ∧ encode (.draw 1 2 15) = 0xD12F ∧ encode (.skipNeqKey 3) = 0xE3A1 ∧
    encode (.call 0xFFF) = 0x2FFF ∧ encode (.shiftL 10) = 0x8A0E := by decide
theorem test_decode_needs_two_bytes : decodeBytes [] = .error .truncated ∧ decodeBytes [0x12] = .error .truncated ∧
    decodeBytes [0x12, 0x00, 0xFF] = .ok (.jump 0x200, [0xFF]) := by decide
theorem test_decodeTableWord : decodeTableWord 16 0x6C7F = some (.loadI 12 0x7F) ∧ decodeTableWord 16 0x8008 = none := by decide

-- The cycle, SYS and UnknownOpcode (V51 to V59).

theorem test_withFetchWord_runs : (after 0x6C7F start).map (fun t => (t.getV 12, t.pc)) = some (0x7F, 0x0202) := by decide
theorem test_sys : (after 0x0123 start).map (fun t => (t.pc, t.decodeFail, t.display)) = some (0x0202, false, none) := by decide
theorem test_unknown : (after 0x8008 start).map (fun t => (t.pc, t.decodeFail, t.fault)) = some (0x0202, true, .none) := by decide
theorem test_drain_floor : (after 0x0000 (((startWith { Inputs.idle with ticks := 3 }).setDt 5).setSt 2)).map (fun t => (t.dt, t.st)) =
    some (2, 0) := by decide
theorem test_drain_more_ticks_than_a_byte : (after 0x0000 (((startWith { Inputs.idle with ticks := 300 }).setDt 5).setSt 2)).map
    (fun t => (t.dt, t.st)) = some (0, 0) := by decide
theorem test_fetch_at_the_end : (match step (start.setPc 0x0FFE) with | .next t => (t.pc, t.fault) | _ => (0, .none)) = (0x1000, .none) := by
  decide
theorem test_fetch_beyond : (match step (((startWith { Inputs.idle with ticks := 1 }).setDt 4).setPc 0x1000) with
    | .next t => (t.fault.code, t.pc, t.dt) | _ => (0, 0, 0)) = (3, 0x1000, 3) := by decide
theorem test_fetch_half_beyond : (match step (start.setPc 0x0FFF) with | .next t => (t.fault.code, t.pc) | _ => (0, 0)) =
    (3, 0x0FFF) := by decide
theorem test_faulted_machine : (match step (((startWith { Inputs.idle with ticks := 2 }).setDt 3).setFault .outOfBoundsMemoryAccess) with
    | .next t => (t.fault.code, t.dt, t.pc) | _ => (0, 0, 0)) = (3, 3, 0x0200) := by decide
theorem test_odd_pc : (after 0x6A55 (start.setPc 0x0201)).map (fun t => (t.getV 10, t.pc, t.fault)) = some (0x55, 0x0203, .none) := by
  decide

-- Control flow (V61 to V80, S6).

theorem test_jump : (after 0x1ABC start).map State.pc = some 0x0ABC := by decide
theorem test_jump_self : (after 0x1200 start).map State.pc = some 0x0200 := by decide
theorem test_call : (after 0x2FFE start).map (fun t => (t.pc, t.sp, t.stack[0])) = some (0x0FFE, 1, 0x0202) := by decide
theorem test_call_full_and_last_level :
    (after 0x2210 (stacked (start.setPc 0x0210) 16 0x0212)).map (fun t => (t.fault.code, t.pc, t.sp)) = some (1, 0x0210, 16) ∧
    (after 0x2400 (stacked (start.setPc 0x0300) 15 0)).map (fun t => (t.pc, t.sp, t.stack[15])) = some (0x0400, 16, 0x0302) := by decide
theorem test_ret_underflow : (after 0x00EE start).map (fun t => (t.fault.code, t.pc, t.sp)) = some (2, 0x0200, 0) := by decide
theorem test_ret : (after 0x00EE (stacked (start.setPc 0x0210) 1 0x0206)).map (fun t => (t.pc, t.sp, t.stack[0])) =
    some (0x0206, 0, 0x0206) := by decide
theorem test_jumpAddV0_not_reduced : (after 0xBFFF (regs start [(0, 0xFF)])).map State.pc = some 0x10FE := by decide
theorem test_jumpAddV0 : (after 0xB300 (regs start [(0, 0x04)])).map State.pc = some 0x0304 := by decide
theorem test_skipEqI : (after 0x3A42 (regs start [(10, 0x42)])).map State.pc = some 0x0204 ∧
    (after 0x3A42 (regs start [(10, 0x43)])).map State.pc = some 0x0202 := by decide
theorem test_skipNeqI : (after 0x4A42 (regs start [(10, 0x42)])).map State.pc = some 0x0202 ∧
    (after 0x4A42 (regs start [(10, 0x43)])).map State.pc = some 0x0204 := by decide
theorem test_skipEq : (after 0x5120 (regs start [(1, 7), (2, 7)])).map State.pc = some 0x0204 ∧
    (after 0x5120 (regs start [(1, 7), (2, 8)])).map State.pc = some 0x0202 := by decide
theorem test_skipNeq : (after 0x9120 (regs start [(1, 7), (2, 8)])).map State.pc = some 0x0204 ∧
    (after 0x9120 (regs start [(1, 7), (2, 7)])).map State.pc = some 0x0202 := by decide
theorem test_skipEqI_over_the_end : (after 0x3000 (start.setPc 0x0FFC)).map (fun t => (t.pc, t.fault)) = some (0x1000, .none) := by decide

-- Arithmetic and logic (V81 to V95ab, S2 to S4).

theorem test_addI_wraps : (after 0x7001 (regs start [(0, 0xFF)])).map (fun t => (t.getV 0, t.getV 15)) = some (0, 0) := by decide
theorem test_addI_vf : (after 0x7F01 (regs start [(15, 0xFF)])).map (fun t => t.getV 15) = some 0 := by decide
theorem test_loadR : (after 0x8010 (regs start [(0, 1), (1, 0xAA)])).map (fun t => (t.getV 0, t.getV 1)) = some (0xAA, 0xAA) := by decide
theorem test_or : (after 0x8011 (regs start [(0, 0xF0), (1, 0x0F), (15, 1)])).map (fun t => (t.getV 0, t.getV 15)) = some (0xFF, 1) := by
  decide
theorem test_and : (after 0x8012 (regs start [(0, 0xF0), (1, 0x3C), (15, 1)])).map (fun t => (t.getV 0, t.getV 15)) = some (0x30, 1) := by
  decide
theorem test_xor : (after 0x8013 (regs start [(0, 0xFF), (1, 0x0F), (15, 1)])).map (fun t => (t.getV 0, t.getV 15)) = some (0xF0, 1) := by
  decide
theorem test_add_carries : (after 0x8014 (regs start [(0, 0xFF), (1, 0x01)])).map (fun t => (t.getV 0, t.getV 15)) = some (0, 1) := by
  decide
theorem test_add_to_vf : (after 0x8F14 (regs start [(15, 0xF0), (1, 0x20)])).map (fun t => t.getV 15) = some 1 := by decide
theorem test_sub_equal : (after 0x8015 (regs start [(0, 7), (1, 7)])).map (fun t => (t.getV 0, t.getV 15)) = some (0, 1) := by decide
theorem test_sub_borrows : (after 0x8015 (regs start [(0, 3), (1, 5)])).map (fun t => (t.getV 0, t.getV 15)) = some (0xFE, 0) := by decide
theorem test_subN : (after 0x8017 (regs start [(0, 3), (1, 5)])).map (fun t => (t.getV 0, t.getV 15)) = some (2, 1) := by decide
theorem test_subN_to_vf : (after 0x8F17 (regs start [(15, 2), (1, 9)])).map (fun t => t.getV 15) = some 1 := by decide
theorem test_shiftR : (after 0x8016 (regs start [(0, 0x03), (1, 0xFF)])).map (fun t => (t.getV 0, t.getV 15)) = some (1, 1) := by decide
theorem test_shiftR_vf : (after 0x8F16 (regs start [(15, 0x02)])).map (fun t => t.getV 15) = some 1 := by decide
theorem test_shiftL : (after 0x801E (regs start [(0, 0x81)])).map (fun t => (t.getV 0, t.getV 15)) = some (2, 1) := by decide
theorem test_shiftL_vf : (after 0x8F1E (regs start [(15, 0x81)])).map (fun t => t.getV 15) = some 2 := by decide
theorem test_rand : (after 0xC50F (startWith { Inputs.idle with rnd := 0xA7 })).map (fun t => t.getV 5) = some 0x07 := by decide
theorem test_rand_mask_0 : (after 0xC500 (regs (startWith { Inputs.idle with rnd := 0xFF }) [(5, 9)])).map (fun t => t.getV 5) = some 0 := by
  decide

-- The display (V96 to V104).

theorem test_draw_wraps_and_collides :
    (after 0xD122 ((poke (regs start [(1, 60), (2, 31)]) 0x300 [0xFF, 0xFF]).setI 0x0300)).map
      (fun t => (t.fb.pixel 31 63, t.fb.pixel 31 3, t.fb.pixel 0 60, t.fb.pixel 0 0, t.fb.pixel 0 4, t.getV 15)) =
        some (true, true, true, true, false, 0) ∧
    (after 0xD001 ((poke (start.setFb (FrameBuffer.off.setPixel 0 0 true)) 0x300 [0xC0]).setI 0x0300)).map
      (fun t => (t.fb.pixel 0 0, t.fb.pixel 0 1, t.getV 15, t.display)) =
        some (false, true, 1, some (.present [⟨0, 0, false⟩, ⟨1, 0, true⟩])) ∧
    (after 0xDF01 ((poke (regs start [(15, 0x0A), (0, 2)]) 0x300 [0x80]).setI 0x0300)).map
      (fun t => (t.fb.pixel 2 10, t.getV 15)) = some (true, 0) := ⟨by decide, by decide, by decide⟩
theorem test_draw_no_rows_and_out_of_range :
    (after 0xD010 ((regs start [(15, 7)]).setI 0xFFFF)).map (fun t => (t.getV 15, t.display, t.fault, t.pc)) =
      some (0, some (.present []), .none, 0x0202) ∧
    (after 0xD013 ((regs start [(15, 7)]).setI 0x0FFE)).map (fun t => (t.fault.code, t.getV 15, t.pc, t.display)) =
      some (3, 7, 0x0200, none) := by decide
theorem test_clear : (after 0x00E0 ((regs start [(15, 1)]).setFb (FrameBuffer.off.setPixel 5 5 true))).map
    (fun t => (t.fb.pixel 5 5, t.display, t.getV 15)) = some (false, some .clear, 1) := by decide

-- Index register and memory (V106 to V123, S5).

theorem test_loadIdx : (after 0xA123 start).map State.I = some 0x0123 := by decide
theorem test_addIdx_wraps : (after 0xF31E ((regs start [(3, 1)]).setI 0xFFFF)).map (fun t => (t.I, t.getV 15)) = some (0, 0) := by decide
theorem test_addIdx_past_12_bits : (after 0xF31E ((regs start [(3, 1)]).setI 0x0FFF)).map (fun t => (t.I, t.fault)) =
    some (0x1000, .none) := by decide
theorem test_loadSprite : (after 0xF029 (regs start [(0, 0x0A)])).map State.I = some 0x0032 := by decide
theorem test_loadSprite_whole_byte : (after 0xF429 (regs start [(4, 0xFF)])).map State.I = some 0x04FB := by decide
theorem test_loadBCD : (after 0xF033 ((regs start [(0, 234)]).setI 0x0300)).map
    (fun t => (t.memRead 0x300, t.memRead 0x301, t.memRead 0x302, t.I)) = some (some 2, some 3, some 4, 0x0300) := by decide
theorem test_loadBCD_out_of_range : (after 0xF033 ((regs start [(0, 255)]).setI 0x0FFE)).map
    (fun t => (t.fault.code, t.memRead 0xFFE, t.memRead 0xFFF, t.pc)) = some (3, some 0, some 0, 0x0200) := by decide
theorem test_storeRegs : (after 0xF255 ((regs start [(0, 0x11), (1, 0x22), (2, 0x33), (3, 0x44)]).setI 0x0300)).map
    (fun t => (t.memRead 0x300, t.memRead 0x302, t.memRead 0x303, t.I)) = some (some 0x11, some 0x33, some 0, 0x0300) := by decide
theorem test_storeRegs_out_of_range : (after 0xFF55 ((regs start [(0, 1), (14, 15)]).setI 0x0FF1)).map
    (fun t => (t.fault.code, t.memRead 0xFF1, t.memRead 0xFFF)) = some (3, some 0, some 0) := by decide
theorem test_readRegs_font : (after 0xF465 (regs start [(5, 0x77)])).map
    (fun t => (t.getV 0, t.getV 3, t.getV 4, t.getV 5, t.I)) = some (0xF0, 0x90, 0xF0, 0x77, 0) := by decide
theorem test_readRegs_out_of_range : (after 0xF165 ((regs start [(0, 5)]).setI 0x0FFF)).map (fun t => (t.fault.code, t.getV 0)) =
    some (3, 5) := by decide
theorem test_store_of_reset_contents_is_not_listed : (poke (poke start 0x300 [0xAB]) 0x300 [0x00]).mem = [] ∧
    (poke start 0x000 [0xF0, 0x91]).mem = [(1, 0x91)] := by decide

-- Timers and keys (V124 to V129).

theorem test_loadFromDT : (after 0xFB07 ((startWith { Inputs.idle with ticks := 1 }).setDt 5)).map (fun t => (t.dt, t.getV 11)) =
    some (4, 4) := by decide
theorem test_setDT_follows_the_drain : (after 0xF115 ((regs (startWith { Inputs.idle with ticks := 3 }) [(1, 9)]).setDt 200)).map State.dt =
    some 9 := by decide
theorem test_setST : (after 0xF118 (regs start [(1, 0x3C)])).map (fun t => (t.st, t.dt)) = some (0x3C, 0) := by decide

/-- Key 7 down, the others up. -/
def key7 : Inputs := { Inputs.idle with keys := (Vector.replicate 16 false).set 7 true }

theorem test_skipEqKey : (after 0xE09E (regs (startWith key7) [(0, 7)])).map State.pc = some 0x0204 ∧
    (after 0xE09E (regs (startWith key7) [(0, 0x17)])).map State.pc = some 0x0202 := by decide
theorem test_skipNeqKey : (after 0xE0A1 (regs (startWith key7) [(0, 7)])).map State.pc = some 0x0202 ∧
    (after 0xE0A1 (regs (startWith key7) [(0, 0x17)])).map State.pc = some 0x0204 := by decide
theorem test_loadKey_waits : (after 0xF00A (((startWith { Inputs.idle with ticks := 1 }).setDt 3).setPc 0x020A)).map
    (fun t => (t.pc, t.getV 0, t.dt)) = some (0x020A, 0, 2) := by decide
theorem test_loadKey_completes : (after 0xF00A ((startWith { Inputs.idle with lastKey := some 0xB }).setPc 0x020A)).map
    (fun t => (t.pc, t.getV 0)) = some (0x020C, 0x0B) := by decide

-- Reset and load (V130 to V134).

theorem test_reset_font : State.reset.memRead 0 = some 0xF0 ∧ State.reset.memRead 5 = some 0x20 ∧ State.reset.memRead 79 = some 0x80 ∧
    State.reset.memRead 80 = some 0 ∧ State.reset.memRead 4095 = some 0 ∧ State.reset.memRead 4096 = none := by decide
theorem test_load : (match load [0x12, 0x00] State.reset with | .next t => (t.memRead 0x200, t.memRead 0x201, t.pc, t.life) | _ => (none, none, 0, .running)) =
    (some 0x12, some 0x00, 0x0200, .loaded) := by decide
theorem test_load_empty : (match load [] State.reset with | .next t => decide (t = State.reset.setLife .loaded) | _ => false) = true := by
  decide
theorem test_load_too_large : load (List.replicate 3585 0xAA) State.reset = .fault .programTooLarge := by
  rw [load, if_neg (by decide), if_pos (by rw [List.length_replicate]; decide)]
theorem test_fault_keeps_the_drain : (after 0x00EE ((startWith { Inputs.idle with ticks := 2 }).setDt 5)).map (fun t => (t.fault.code, t.dt)) =
    some (2, 3) := by decide

-- Witnesses: the hypotheses of each statement that has some, met by concrete values.

theorem witness_DecodeInvertsEncode : (Instr.sys 0xFFF).wellFormed = true ∧ (Instr.draw 15 15 15).wellFormed = true ∧
    (Instr.readRegs 15).wellFormed = true := by decide
theorem witness_EncodeInvertsDecode : decode 0x5FFF = .ok (.skipEq 15 15) ∧ decode 0x8FF6 = .ok (.shiftR 15) ∧
    decode 0x8FFE = .ok (.shiftL 15) ∧ decode 0xFF65 = .ok (.readRegs 15) := by decide
theorem witness_DecodeIsFirstMatch : firstRow 0x00EE = some ⟨"Return", 0x00EE, 0xFFFF⟩ ∧ firstRow 0x00EF = some ⟨"SYS", 0x0000, 0xF000⟩ ∧
    firstRow 0xF066 = none := by decide
theorem witness_UnknownOpcodeSet : decode 0x8FFF = .error .unknownOpcode ∧ decode 0x9001 = .error .unknownOpcode ∧
    decode 0xE09D = .error .unknownOpcode ∧ decode 0xF006 = .error .unknownOpcode ∧ decode 0x8007 = .ok (.subN 0 0) := by decide
theorem witness_FamilyZeroDecodes : (0x0FFF : Word).toNat < 0x1000 ∧ (0x0FFF : Word) ≠ 0x00E0 ∧ (0x0FFF : Word) ≠ 0x00EE := by decide
theorem witness_ProgramLoad_fits : State.reset.life = .constructed ∧ (List.replicate 3584 (0xAA : Byte)).length ≤ 3584 :=
  ⟨rfl, by rw [List.length_replicate]⟩
theorem witness_ProgramLoad_too_large : State.reset.life = .constructed ∧ 3584 < (List.replicate 3585 (0xAA : Byte)).length :=
  ⟨rfl, by rw [List.length_replicate]; decide⟩
theorem witness_LoadOutOfOrderIsRefused : (∃ t, load [] State.reset = .next t) ∧ start.fault = .none ∧ ∃ t, step start = .next t :=
  ⟨⟨_, rfl⟩, rfl, ⟨_, rfl⟩⟩
theorem witness_EmptyMachineRunsOffMemory : 0 ≤ 1792 ∧ 0 < 1792 ∧ State.reset.fetchDecode = .instr (.sys 0) ∧
    (State.reset.setPc 0x1000).fetchDecode = .outOfBounds := by decide
theorem witness_StepRunsTheDecodedInstruction : (poke start 0x200 [0x6C, 0x7F]).fault = .none ∧
    (poke start 0x200 [0x6C, 0x7F]).memRead 0x200 = some 0x6C ∧ (poke start 0x200 [0x6C, 0x7F]).memRead 0x201 = some 0x7F ∧
    decode ((0x6C : Byte) ++ (0x7F : Byte)) = .ok (.loadI 12 0x7F) := by decide
theorem witness_StepRuns_last_address : (start.setPc 0x0FFE).memRead 0xFFE = some 0 ∧ (start.setPc 0x0FFE).memRead 0xFFF = some 0 ∧
    decode ((0 : Byte) ++ (0 : Byte)) = .ok (.sys 0) := by decide
theorem witness_TickDrain : start.fault = .none ∧ (start.setFault .stackOverflow).fault ≠ .none ∧
    ∃ t, step (start.setFault .stackOverflow) = .next t := ⟨rfl, by decide, ⟨_, rfl⟩⟩
theorem witness_FetchIsBigEndian : (poke (start.setPc 0x0FFE) 0xFFE [0x80, 0x08]).memRead 0xFFE = some 0x80 ∧
    (poke (start.setPc 0x0FFE) 0xFFE [0x80, 0x08]).memRead 0xFFF = some 0x08 ∧
    (0x8008 : Word) = ((0x80 : Byte).setWidth 16 <<< 8) ||| (0x08 : Byte).setWidth 16 ∧ decode 0x8008 = .error .unknownOpcode := by decide
theorem witness_FetchIsBigEndian_instr : (poke (start.setPc 0x0201) 0x201 [0x6A, 0x55]).memRead 0x201 = some 0x6A ∧
    (poke (start.setPc 0x0201) 0x201 [0x6A, 0x55]).memRead 0x202 = some 0x55 ∧
    (0x6A55 : Word) = ((0x6A : Byte).setWidth 16 <<< 8) ||| (0x55 : Byte).setWidth 16 ∧ decode 0x6A55 = .ok (.loadI 10 0x55) := by decide
theorem witness_FetchBeyondMemoryRaises : (start.setPc 0x0FFF).fault = .none ∧ 4096 ≤ (start.setPc 0x0FFF).pc.toNat + 1 ∧
    4096 ≤ (start.setPc 0xFFFF).pc.toNat + 1 := by decide
theorem witness_DecodeFailureIsNoOp : (poke start 0x200 [0x80, 0x08]).fault = .none ∧
    (poke start 0x200 [0x80, 0x08]).memRead 0x200 = some 0x80 ∧ (poke start 0x200 [0x80, 0x08]).memRead 0x201 = some 0x08 ∧
    decode ((0x80 : Byte) ++ (0x08 : Byte)) = .error .unknownOpcode := by decide
theorem witness_FatalErrorsExactly_raises : fatalCause (.call 0) (stacked start 16 0) = some .stackOverflow ∧
    fatalCause .ret start = some .stackUnderflow ∧ fatalCause (.draw 0 0 3) (start.setI 0x0FFE) = some .outOfBoundsMemoryAccess ∧
    fatalCause (.loadBCD 0) (start.setI 0x0FFE) = some .outOfBoundsMemoryAccess ∧
    fatalCause (.storeRegs 15) (start.setI 0x0FF1) = some .outOfBoundsMemoryAccess ∧
    fatalCause (.readRegs 1) (start.setI 0x0FFF) = some .outOfBoundsMemoryAccess := by decide
theorem witness_FatalErrorsExactly_completes : fatalCause (.call 0) (stacked start 15 0) = none ∧ fatalCause .ret (stacked start 1 0) = none ∧
    fatalCause (.draw 0 0 2) (start.setI 0x0FFE) = none ∧ fatalCause (.draw 0 0 0) (start.setI 0xFFFF) = none ∧
    fatalCause (.loadBCD 0) (start.setI 0x0FFD) = none ∧ fatalCause (.storeRegs 15) (start.setI 0x0FF0) = none ∧
    fatalCause (.readRegs 0) (start.setI 0x0FFF) = none ∧ fatalCause .clear start = none := by decide
theorem witness_FatalErrorsArePrecise : start.fault = .none ∧ ∃ t, step (start.setPc 0x0FFF) = .next t ∧ t.fault ≠ .none :=
  ⟨rfl, _, rfl, by decide⟩
theorem witness_FaultedMachineStaysStopped : (start.setFault .stackUnderflow).fault ≠ .none ∧ 0 < 1 := by decide
/-- For ProgramCounterTable and WrittenStateTable. -/
theorem witness_tables : fatalCause (.storeRegs 15) (start.setI 0x0FF0) = none ∧
    (∃ t, exec (.storeRegs 15) (start.setI 0x0FF0) = .next t) ∧ fatalCause (.loadKey 0) start = none ∧
    (∃ t, exec (.loadKey 0) start = .next t) ∧ mayWriteReg (.readRegs 14) 15 = false := ⟨by decide, ⟨_, rfl⟩, by decide, ⟨_, rfl⟩, by decide⟩
theorem witness_InputsReadOnlyWhereNamed : ({ Inputs.idle with ticks := 9 } : Inputs).rnd = start.inp.rnd ∧
    ({ Inputs.idle with ticks := 9 } : Inputs).lastKey = start.inp.lastKey ∧ ({ Inputs.idle with ticks := 9 } : Inputs).keys = start.inp.keys ∧
    (∃ t, exec (.rand 0 0xFF) start = .next t) ∧ (∃ t, exec (.loadKey 0) start = .next t) ∧ ∃ t, exec (.skipEqKey 0) start = .next t :=
  ⟨by decide, by decide, by decide, ⟨_, rfl⟩, ⟨_, rfl⟩, ⟨_, rfl⟩⟩
theorem witness_TimersChangeOnlyByDrainOrSet : start.fault = .none ∧ (∃ t, step start = .next t) ∧
    start.beginCycle.fetchDecode = .instr (.sys 0) ∧ (poke start 0x200 [0xF1, 0x15]).beginCycle.fetchDecode = .instr (.setDT 1) ∧
    (poke start 0x200 [0xF1, 0x18]).beginCycle.fetchDecode = .instr (.setST 1) ∧ ∃ t, exec (.loadFromDT 1) start = .next t :=
  ⟨rfl, ⟨_, rfl⟩, by decide, by decide, by decide, ⟨_, rfl⟩⟩
theorem witness_MemoryStaysCanonical : (poke start 0x200 [0xF1, 0x55]).memCanonical ∧ ∃ t, step (poke start 0x200 [0xF1, 0x55]) = .next t :=
  ⟨rfl, _, rfl⟩
theorem witness_CanonicalMemoryIsUnique : Memory.wf [(0x000, 0x00), (0xFFF, 0x01)] = true ∧ Memory.wf [(0x200, 0x00)] = false ∧
    Memory.wf [(0x1000, 0x01)] = false ∧ Memory.wf [(0x300, 0x01), (0x200, 0x01)] = false := by decide
theorem witness_ProgramCounterStaysBounded : (start.setPc 0x10FE).pcBounded ∧ (stacked start 16 0x1000).pcBounded ∧
    (∃ t, step (start.setPc 0x10FE) = .next t) ∧ ∃ t, step (stacked start 16 0x1000) = .next t :=
  ⟨⟨by decide, by decide⟩, ⟨by decide, by decide⟩, ⟨_, rfl⟩, ⟨_, rfl⟩⟩
theorem witness_ResetMeetsTheInvariants : start.memCanonical ∧ start.pcBounded ∧ ∃ t, load [0x12, 0x00] start = .next t :=
  ⟨rfl, ⟨by decide, by decide⟩, _, rfl⟩
theorem witness_ByteAccess : start.memRead 4095 = some 0 ∧ start.memRead 4096 = none ∧ start.memWrite 4096 1 = none ∧
    (start.memWrite 4095 1).map (fun t => (t.memRead 4095, t.memRead 4094)) = some (some 1, some 0) := by decide
theorem witness_FetchSeesStores : (start.setI 0x0FF0).I.toNat + (15 : Reg).val < 4096 ∧ 14 + 1 ≤ (15 : Reg).val ∧
    (∃ t, exec (.storeRegs 15) (start.setI 0x0FF0) = .next t) ∧
    decode ((start.setI 0x0FF0).getV 14 ++ (start.setI 0x0FF0).getV 15) = .ok (.sys 0) := ⟨by decide, by decide, ⟨_, rfl⟩, by decide⟩
theorem witness_CallPushesReturnAddress : start.sp.val = (0 : Fin 16).val ∧ (stacked start 15 0).sp.val = (15 : Fin 16).val ∧
    (stacked start 16 0).sp.val = 16 := by decide
theorem witness_ReturnPopsToPc : (stacked start 1 0).sp.val = (0 : Fin 16).val + 1 ∧ (stacked start 16 0).sp.val = (15 : Fin 16).val + 1 ∧
    start.sp.val = 0 := by decide
theorem witness_CallThenReturnResumes : (stacked start 15 0).sp.val < 16 ∧ ∃ t, exec (.call 0x210) (stacked start 15 0) = .next t ∧
    (t.setV 3 9).sp = t.sp ∧ (t.setV 3 9).stack = t.stack := ⟨by decide, _, rfl, rfl, rfl⟩
theorem witness_RegisterSkips : (regs start [(1, 7)]).getV 1 = 7 ∧ (regs start [(1, 7)]).getV 1 ≠ 8 ∧
    (regs start [(1, 7), (2, 7)]).getV 1 = (regs start [(1, 7), (2, 7)]).getV 2 ∧ (regs start [(1, 7)]).getV 1 ≠ (regs start [(1, 7)]).getV 2 := by
  decide
/-- For ArithmeticWithFlag, ShiftsReportTheBitShiftedOut and FlagRegisterAsDestination. -/
theorem witness_flag_instructions : (0 : Reg) ≠ 15 ∧ (14 : Reg) ≠ 15 ∧ 0xF0 = ((regs start [(15, 0xF0)]).getV 15).toNat ∧
    0 = ((regs start [(15, 0xF0)]).getV 14).toNat := by decide
theorem witness_LoadBCDStoresDigits : (start.setI 0x0FFD).I.toNat + 2 < 4096 ∧ 4096 ≤ (start.setI 0x0FFE).I.toNat + 2 := by decide
/-- For StoreRegsStoresTheBlock and ReadRegsLoadsTheBlock. -/
theorem witness_StoreRegs_and_ReadRegs : (start.setI 0x0FF0).I.toNat + (15 : Reg).val < 4096 ∧ 4096 ≤ (start.setI 0x0FF1).I.toNat + (15 : Reg).val ∧
    (start.setI 0x0FFF).I.toNat + (0 : Reg).val < 4096 ∧ 4096 ≤ (start.setI 0x0FFF).I.toNat + (1 : Reg).val := by decide
theorem witness_StoreThenReadRestoresRegisters : (start.setI 0x0FF0).I.toNat + (15 : Reg).val < 4096 ∧
    ∃ t, exec (.storeRegs 15) (start.setI 0x0FF0) = .next t ∧ (t.setV 0 9).mem = t.mem ∧ (t.setV 0 9).I = (start.setI 0x0FF0).I :=
  ⟨by decide, _, rfl, rfl, rfl⟩
theorem witness_DrawComposesTheSprite : (start.setI 0x0FF1).I.toNat + (15 : Nibble).toNat ≤ 4096 ∧ (0 : Nibble).toNat = 0 := by decide
theorem witness_DrawOutOfRangeRaises : 1 ≤ (15 : Nibble).toNat ∧ 4096 ≤ (start.setI 0x0FF2).I.toNat + (15 : Nibble).toNat - 1 ∧
    1 ≤ (1 : Nibble).toNat ∧ 4096 ≤ (start.setI 0x1000).I.toNat + (1 : Nibble).toNat - 1 := by decide
theorem witness_DrawTwiceRestores : start.I.toNat + (5 : Nibble).toNat ≤ 4096 ∧ (litPixels start 0 1 5).length = 14 ∧
    litPixels start 0 1 0 = [] ∧ (∀ p ∈ litPixels start 0 1 5, start.fb.pixel p.1 p.2 = false) ∧
    ∃ t, exec (.draw 0 1 5) start = .next t ∧ t.mem = start.mem ∧ t.I = start.I ∧ t.getV 0 = start.getV 0 ∧ t.getV 1 = start.getV 1 :=
  ⟨by decide, by decide, by decide, fun p _ => FrameBuffer.pixel_off p.1 p.2, _, rfl, by decide, by decide, by decide, by decide⟩
/-- By R202, where every pixel under the 1 bits was on, the first Draw reports the collision and the second none (log entry 28). -/
theorem witness_DrawTwiceRestores_all_on :
    ((after 0xD001 ((poke (start.setFb (FrameBuffer.off.setPixel 0 0 true)) 0x300 [0x80]).setI 0x0300)).map
      fun t => (t.fb.pixel 0 0, t.getV 15)) = some (false, 1) ∧
    ((after 0xD001 ((poke start 0x300 [0x80]).setI 0x0300)).map fun t => (t.fb.pixel 0 0, t.getV 15)) = some (true, 0) :=
  ⟨by decide, by decide⟩
theorem witness_DisplayEventsMirrorTheFrameBuffer : ∃ t, Host.Core.run core 1 (poke start 0x200 [0xD0, 0x15]) = .next t ∧
    t.fb.pixel 0 3 = true := ⟨_, rfl, by decide⟩
theorem witness_KeySkips : ((regs (start.beginCycle) [(0, 7)]).getV 0).toNat = (7 : KeyCode).val ∧ key7.keys[(7 : KeyCode)] = true ∧
    key7.keys[(15 : KeyCode)] = false ∧ 16 ≤ ((regs start [(0, 16)]).getV 0).toNat := by decide
theorem witness_LoadKeyWaitsForTheLatch : start.inp.lastKey = none ∧
    (startWith { Inputs.idle with lastKey := some 15 }).beginCycle.inp.lastKey = some 15 := by decide

end Sys2Proof.Tests
end

section
/-! SUPPORT. The contents of registers, stack and memory after reset (R39), with the font cut into its glyphs (R66). -/

namespace Sys2Proof.Machine

@[simp] theorem State.getV_reset (r : Reg) : State.reset.getV r = 0 := by
  simp [State.getV, State.reset]

theorem State.stack_reset (k : Fin 16) : State.reset.stack[k] = 0 := by
  simp [State.reset]

@[simp] theorem State.pixel_reset (r : Row) (c : Col) : State.reset.fb.pixel r c = false :=
  FrameBuffer.pixel_off r c

@[simp] theorem fontTable_length : fontTable.length = 80 := rfl

/-- Within the font, an unwritten byte is the font's. -/
theorem Memory.initial_of_lt {a : Nat} (h : a < fontTable.length) : Memory.initial a = fontTable[a] :=
  List.getD_eq_getElem fontTable 0 h

/-- Above the font, an unwritten byte is 0. -/
theorem Memory.initial_of_le {a : Nat} (h : fontTable.length ≤ a) : Memory.initial a = 0 :=
  List.getD_eq_default fontTable 0 h

/-- Nothing is written at reset, so a byte that exists has its initial contents. -/
theorem State.memRead_reset {a : Nat} (h : a < Config.memSize) : State.reset.memRead a = some (Memory.initial a) :=
  State.memRead_of_lt State.reset h

/-- The rows of glyph `g` as the font stores them. -/
def fontGlyph (g : Nat) : List Byte := (fontTable.drop (Config.glyphLen * g)).take Config.glyphLen

/-- The 5 bytes from `5 * g` upward are the rows of glyph `g`, for each glyph that lies within the font. -/
theorem State.memRead_reset_glyph {g : Nat} (hg : g < 16) :
    (List.range 5).map (fun k => State.reset.memRead (5 * g + k)) = (fontGlyph g).map some := by
  have hlen : (fontGlyph g).length = 5 := by
    simp only [fontGlyph, List.length_take, List.length_drop, fontTable_length, Config.glyphLen]
    omega
  refine List.ext_getElem (by simp [hlen]) fun k hk _ => ?_
  have hk : k < 5 := by simpa using hk
  have hfont : 5 * g + k < fontTable.length := by rw [fontTable_length]; omega
  have hmem : 5 * g + k < Config.memSize := by rw [Config.memSize]; omega
  simp [State.memRead_reset hmem, Memory.initial_of_lt hfont, fontGlyph, Config.glyphLen]

/-- Settles O8: registers, stack and pixels by the lemmas above, the font glyph by glyph, and the memory above it as unwritten. -/
theorem resetState : Obligations.ResetState := by
  refine ⟨State.getV_reset, rfl, rfl, rfl, State.stack_reset, rfl, rfl, State.pixel_reset, rfl, ?_, ?_⟩
  · intro g glyph h
    have hglyph : ((List.range 16).map fontGlyph)[g]? = some glyph := h
    obtain ⟨hg, rfl⟩ := List.getElem?_eq_some_iff.1 hglyph
    simpa using State.memRead_reset_glyph (by simpa using hg)
  · intro a hlo hhi
    rw [State.memRead_reset hhi, Memory.initial_of_le hlo]

end Sys2Proof.Machine
end

section
/-! SUPPORT. One access of one byte (R62, R63): the range check of a write, what a read returns after it, and the write's frame. -/

namespace Sys2Proof.Machine

theorem State.memWrite_of_lt (s : State) {a : Nat} (v : Byte) (h : a < Config.memSize) :
    s.memWrite a v = some (s.setMem (s.mem.write a v)) := by
  simp [State.memWrite, h]

theorem State.memWrite_of_le (s : State) {a : Nat} (v : Byte) (h : Config.memSize ≤ a) : s.memWrite a v = none := by
  simp [State.memWrite, Nat.not_lt.2 h]

/-- The byte just written is the one read at its address (R63, R73). -/
theorem State.memRead_setMem_write_same (s : State) {a : Nat} (v : Byte) (h : a < Config.memSize) :
    (s.setMem (s.mem.write a v)).memRead a = some v := by
  rw [State.memRead_setMem, if_pos h, Memory.read_write, if_pos rfl]

/-- At another address a read is unaffected, in range or not (R63). -/
theorem State.memRead_setMem_write_ne (s : State) {a k : Nat} (v : Byte) (hk : k ≠ a) :
    (s.setMem (s.mem.write a v)).memRead k = s.memRead k := by
  rw [State.memRead_setMem, Memory.read_write, if_neg hk, State.memRead]

/-- Replacing the memory alone, with no advance of `pc`, writes no other piece. -/
theorem frame_setMem_alone (s : State) (m : Memory) : Frame [.memory] s (s.setMem m) := by
  refine ⟨fun p hp => ?_, rfl, rfl, rfl, rfl, rfl⟩
  cases p with
  | memory => exact absurd (List.mem_singleton_self _) hp
  | regs | index | stack | delay | sound | frameBuffer | display | decodeFail => simp [Piece.same]

/-- Settles O29: out of range both accesses answer none; in range the write replaces the memory alone, and reads follow
`Memory.read_write`. -/
theorem byteAccess : Obligations.ByteAccess := by
  refine fun s a v => ⟨fun h => ⟨s.memRead_of_le h, s.memWrite_of_le v h⟩, fun h => ⟨s.memRead_of_lt h, ?_⟩⟩
  obtain ⟨hpieces, hfault, hhost⟩ := frame_setMem_alone s (s.mem.write a v)
  exact ⟨_, s.memWrite_of_lt v h, s.memRead_setMem_write_same v h, fun k hk => s.memRead_setMem_write_ne v hk,
    fun p hp => hpieces p (by simpa using hp), rfl, hfault, hhost⟩

end Sys2Proof.Machine
end

section
/-! SUPPORT. The decoder on family 0 (R94), and the operand fields of a word by masks and shifts (R92). -/

namespace Sys2Proof

/-- The family 0 is the words below 0x1000. -/
theorem famOf_eq_zero_iff (w : Word) : famOf w = 0 ↔ w.toNat < 0x1000 := by
  rw [← BitVec.toNat_inj, famOf_toNat]
  exact Nat.div_eq_zero_iff.trans (by simp)

/-- The first dispatch sends family 0 to its own decoder. -/
theorem decode_of_famOf_zero {w : Word} (h : famOf w = 0) : decode w = decode0 w := by
  simp [decode, h]

theorem decode0_of_ne {w : Word} (hclear : w ≠ 0x00E0) (hret : w ≠ 0x00EE) : decode0 w = .ok (.sys (nnnOf w)) := by
  rw [decode0, if_neg hclear, if_neg hret]

/-- The address field is the word cut to its low 12 bits. -/
theorem nnnOf_eq_setWidth (w : Word) : nnnOf w = w.setWidth 12 := by
  apply BitVec.eq_of_toNat_eq
  rw [nnnOf_toNat, BitVec.toNat_setWidth]

/-- A mask of `k` ones keeps the remainder by `2 ^ k`. -/
theorem toNat_and_lowMask (w : Word) {k : Nat} {mask : Word} (hmask : mask.toNat = 2 ^ k - 1) :
    (w &&& mask).toNat = w.toNat % 2 ^ k := by
  rw [BitVec.toNat_and, hmask, Nat.and_two_pow_sub_one_eq_mod]

/-- A shift by `j` and a mask of `k` ones take the `k` bits from bit `j` upward. -/
theorem toNat_ushiftRight_and_lowMask (w : Word) (j : Nat) {k : Nat} {mask : Word} (hmask : mask.toNat = 2 ^ k - 1) :
    ((w >>> j) &&& mask).toNat = w.toNat / 2 ^ j % 2 ^ k := by
  rw [toNat_and_lowMask _ hmask, BitVec.toNat_ushiftRight, Nat.shiftRight_eq_div_pow]

/-- Settles O7: each field is a quotient and a remainder of the word, and so is each mask and shift. -/
theorem operandExtraction : Obligations.OperandExtraction := by
  intro w
  refine ⟨?_, ?_, ?_, ?_, ?_⟩
  · exact (nnnOf_toNat w).trans (toNat_and_lowMask w (k := 12) rfl).symm
  · exact (xOf_val w).trans (toNat_ushiftRight_and_lowMask w 8 (k := 4) rfl).symm
  · exact (yOf_val w).trans (toNat_ushiftRight_and_lowMask w 4 (k := 4) rfl).symm
  · exact (kkOf_toNat w).trans (toNat_and_lowMask w (k := 8) rfl).symm
  · exact (nOf_toNat w).trans (toNat_and_lowMask w (k := 4) rfl).symm

end Sys2Proof

namespace Sys2Proof.Machine

/-- The meaning of SYS: `pc` advances, whatever the operand (R126). -/
theorem exec_sys (nnn : Addr) (s : State) : exec (.sys nnn) s = .next s.advance := rfl

/-- Settles O6: family 0 goes to its own decoder, which tells its two literal words from SYS, and SYS only advances `pc`. -/
theorem familyZeroDecodes : Obligations.FamilyZeroDecodes := by
  refine ⟨rfl, rfl, fun w hfam hclear hret => ?_, fun nnn s => ⟨s.advance, exec_sys nnn s, frame_setPc s _⟩⟩
  rw [decode_of_famOf_zero ((famOf_eq_zero_iff w).2 hfam), decode0_of_ne hclear hret, nnnOf_eq_setWidth]

end Sys2Proof.Machine
end

section
/-! SUPPORT. The meanings of Jump and of the skips on registers, each a `setPc` of the state (R141, R144 to R147). -/

namespace Sys2Proof.Machine

/-- The meaning of Jump: `pc` is the operand, widened (R141). -/
theorem exec_jump (nnn : Addr) (s : State) : exec (.jump nnn) s = .next (s.setPc (addrWord nnn)) := rfl

/-- Settles O32: the target widened to a word keeps its number, and only `pc` is written. -/
theorem jumpTakesTarget : Obligations.JumpTakesTarget :=
  fun nnn s => ⟨_, exec_jump nnn s, addrWord_toNat nnn, frame_setPc s _⟩

/-- The meaning of SkipEqI (R144). -/
theorem exec_skipEqI (x : Reg) (kk : Byte) (s : State) : exec (.skipEqI x kk) s = .next (s.skipIf (s.getV x == kk)) := rfl

/-- The meaning of SkipNeqI (R145). -/
theorem exec_skipNeqI (x : Reg) (kk : Byte) (s : State) : exec (.skipNeqI x kk) s = .next (s.skipIf (s.getV x != kk)) := rfl

/-- The meaning of SkipEq (R146). -/
theorem exec_skipEq (x y : Reg) (s : State) : exec (.skipEq x y) s = .next (s.skipIf (s.getV x == s.getV y)) := rfl

/-- The meaning of SkipNeq (R147). -/
theorem exec_skipNeq (x y : Reg) (s : State) : exec (.skipNeq x y) s = .next (s.skipIf (s.getV x != s.getV y)) := rfl

/-- A skip writes `pc` alone, taken or not. -/
theorem frame_skipIf (s : State) (b : Bool) : Frame [] s (s.skipIf b) := frame_setPc s _

/-- A skip on equality of two bytes. -/
theorem State.skipIf_beq_spec (s : State) (a b : Byte) :
    (a = b → (s.skipIf (a == b)).pc = s.pc + 4) ∧ (a ≠ b → (s.skipIf (a == b)).pc = s.pc + 2) ∧
      Frame [] s (s.skipIf (a == b)) :=
  ⟨fun h => by simp [h], fun h => by simp [h], frame_skipIf s _⟩

/-- A skip on inequality of two bytes. -/
theorem State.skipIf_bne_spec (s : State) (a b : Byte) :
    (a ≠ b → (s.skipIf (a != b)).pc = s.pc + 4) ∧ (a = b → (s.skipIf (a != b)).pc = s.pc + 2) ∧
      Frame [] s (s.skipIf (a != b)) :=
  ⟨fun h => by simp [h], fun h => by simp [h], frame_skipIf s _⟩

/-- Settles O37: two skips compare for equality and two for inequality, with an immediate or with a register. -/
theorem registerSkips : Obligations.RegisterSkips :=
  fun x y kk s =>
    ⟨⟨_, exec_skipEqI x kk s, s.skipIf_beq_spec (s.getV x) kk⟩,
     ⟨_, exec_skipNeqI x kk s, s.skipIf_bne_spec (s.getV x) kk⟩,
     ⟨_, exec_skipEq x y s, s.skipIf_beq_spec (s.getV x) (s.getV y)⟩,
     ⟨_, exec_skipNeq x y s, s.skipIf_bne_spec (s.getV x) (s.getV y)⟩⟩

end Sys2Proof.Machine
end

section
/-! SUPPORT. The meanings of the immediate load and add and of the logic on registers, each a `setV` of the state (R160, R161,
R163 to R165). -/

namespace Sys2Proof.Machine

/-- The meaning of LoadI (R160). -/
theorem exec_loadI (x : Reg) (kk : Byte) (s : State) : exec (.loadI x kk) s = .next (s.setV x kk).advance := rfl

/-- The meaning of AddI (R161). -/
theorem exec_addI (x : Reg) (kk : Byte) (s : State) : exec (.addI x kk) s = .next (s.setV x (s.getV x + kk)).advance := rfl

/-- The meaning of Or (R163). -/
theorem exec_or (x y : Reg) (s : State) : exec (.or x y) s = .next (s.setV x (s.getV x ||| s.getV y)).advance := rfl

/-- The meaning of And (R164). -/
theorem exec_and (x y : Reg) (s : State) : exec (.and x y) s = .next (s.setV x (s.getV x &&& s.getV y)).advance := rfl

/-- The meaning of Xor (R165). -/
theorem exec_xor (x y : Reg) (s : State) : exec (.xor x y) s = .next (s.setV x (s.getV x ^^^ s.getV y)).advance := rfl

/-- The sum of two bytes is the sum of their numbers modulo 256 (R172). -/
theorem byte_add_eq_ofNat_mod (a b : Byte) : a + b = BitVec.ofNat 8 ((a.toNat + b.toNat) % 256) := by
  apply BitVec.eq_of_toNat_eq
  rw [BitVec.toNat_add, BitVec.toNat_ofNat, Nat.mod_mod]

/-- Settles O38: both write one register, and the sum of the bytes is the one of their numbers. -/
theorem immediateLoadAndAdd : Obligations.ImmediateLoadAndAdd := by
  intro x kk s
  rw [← byte_add_eq_ofNat_mod]
  exact ⟨⟨_, exec_loadI x kk s, writesOnly_setV s x kk⟩, ⟨_, exec_addI x kk s, writesOnly_setV s x _⟩⟩

/-- Settles O39: each writes one register, and the operations on bytes are the ones on their bits. -/
theorem logicBitByBit : Obligations.LogicBitByBit := by
  intro x y s
  refine ⟨s.getV x ||| s.getV y, s.getV x &&& s.getV y, s.getV x ^^^ s.getV y, fun k => ⟨?_, ?_, ?_⟩,
    ⟨_, exec_or x y s, writesOnly_setV s x _⟩, ⟨_, exec_and x y s, writesOnly_setV s x _⟩,
    ⟨_, exec_xor x y s, writesOnly_setV s x _⟩⟩
  · exact BitVec.getElem_or k.isLt
  · exact BitVec.getElem_and k.isLt
  · exact BitVec.getElem_xor k.isLt

end Sys2Proof.Machine
end

section
/-! SUPPORT. The meanings of LoadIdx and AddIdx, each a `setI` of the state (R180, R181). -/

namespace Sys2Proof.Machine

/-- The meaning of LoadIdx (R180). -/
theorem exec_loadIdx (nnn : Addr) (s : State) : exec (.loadIdx nnn) s = .next (s.setI (addrWord nnn)).advance := rfl

/-- The meaning of AddIdx (R181). -/
theorem exec_addIdx (x : Reg) (s : State) : exec (.addIdx x) s = .next (s.setI (s.I + zext16 (s.getV x))).advance := rfl

/-- The index register and `pc` are written. -/
theorem frame_setI (s : State) (w : Word) : Frame [.index] s (s.setI w).advance := by
  refine ⟨fun p hp => ?_, rfl, rfl, rfl, rfl, rfl⟩
  cases p with
  | index => exact absurd (List.mem_singleton_self _) hp
  | regs | stack | delay | sound | frameBuffer | memory | display | decodeFail => simp [Piece.same]

/-- A word plus a byte is the sum of their numbers modulo 65536. -/
theorem toNat_add_zext16 (w : Word) (b : Byte) : (w + zext16 b).toNat = (w.toNat + b.toNat) % 65536 := by
  rw [BitVec.toNat_add, zext16_toNat]

/-- Settles O45: both write `I` alone, with the operand widened to a word or with a sum of words. -/
theorem indexLoadAndAdd : Obligations.IndexLoadAndAdd :=
  fun nnn x s =>
    ⟨⟨_, exec_loadIdx nnn s, addrWord_toNat nnn, rfl, frame_setI s _⟩,
     ⟨_, exec_addIdx x s, toNat_add_zext16 s.I (s.getV x), rfl, frame_setI s _⟩⟩

end Sys2Proof.Machine
end

section
/-! SUPPORT. The instructions that store a block from `I` upward, LoadBCD and StoreRegs: what such an instruction answers on either side
of the end of memory, said once for any block (R64, R183, R184). -/

namespace Sys2Proof.Machine

/-- What an instruction that stores the block `bs` from `I` upward answers. -/
def State.storeFromI (s : State) (bs : List Byte) : Host.Outcome State Fault Refusal :=
  s.orRaise .outOfBoundsMemoryAccess ((s.storeBlock s.base bs).map State.advance)

/-- The meaning of LoadBCD (R183). -/
theorem exec_loadBCD (x : Reg) (s : State) : exec (.loadBCD x) s = s.storeFromI (bcdDigits (s.getV x)) := rfl

/-- The meaning of StoreRegs (R184). -/
theorem exec_storeRegs (x : Reg) (s : State) : exec (.storeRegs x) s = s.storeFromI (s.regBlock x) := rfl

/-- In range, each byte of the block stands at its address, every other byte is as before, and only memory and `pc` are written. -/
theorem State.storeFromI_of_le (s : State) (bs : List Byte) (h : s.I.toNat + bs.length ≤ Config.memSize) :
    ∃ t, s.storeFromI bs = .next t ∧ (∀ j, j < bs.length → t.memRead (s.I.toNat + j) = some (bs.getD j 0)) ∧
      (∀ a, (a < s.I.toNat ∨ s.I.toNat + bs.length ≤ a) → t.memRead a = s.memRead a) ∧ t.pc = s.pc + 2 ∧
      Frame [.memory] s t := by
  obtain ⟨m, hstore, hread, -⟩ := s.storeBlock_of_le s.base bs (.inr h)
  refine ⟨(s.setMem m).advance, ?_, fun j hj => ?_, fun a ha => ?_, rfl, frame_setMem s m⟩
  · rw [State.storeFromI, hstore, Option.map_some, State.orRaise_some]
  · rw [State.memRead_advance, State.memRead_setMem, if_pos (by omega), hread, State.base, if_pos (by omega),
      Nat.add_sub_cancel_left]
  · have hkept : m.read a = s.mem.read a := by rw [hread, State.base, if_neg (by omega)]
    rw [State.memRead_advance, State.memRead_setMem, hkept, State.memRead]

/-- Out of range, nothing is stored and the fatal error is raised. -/
theorem State.storeFromI_of_gt (s : State) (bs : List Byte) (hne : bs ≠ []) (h : Config.memSize < s.I.toNat + bs.length) :
    s.storeFromI bs = .next (raise .outOfBoundsMemoryAccess s) := by
  rw [State.storeFromI, s.storeBlock_of_gt s.base bs hne h, Option.map_none, State.orRaise_none]

@[simp] theorem bcdDigits_length (v : Byte) : (bcdDigits v).length = 3 := rfl

/-- Settles O47: the block of three digits is stored from `I`, or nothing is. -/
theorem loadBCDStoresDigits : Obligations.LoadBCDStoresDigits := by
  intro x s
  rw [exec_loadBCD]
  refine ⟨fun h => ?_, fun h => ?_⟩
  · obtain ⟨t, hexec, hdigit, hother, hpc, hframe⟩ :=
      s.storeFromI_of_le (bcdDigits (s.getV x)) (by rw [bcdDigits_length, Config.memSize]; omega)
    exact ⟨t, hexec, hdigit 0 (by simp), hdigit 1 (by simp), hdigit 2 (by simp), hother, hpc, hframe⟩
  · exact ⟨_, s.storeFromI_of_gt _ (List.cons_ne_nil _ _) (by rw [bcdDigits_length, Config.memSize]; omega), rfl, fun _ => rfl⟩

theorem State.regBlock_ne_nil (s : State) (x : Reg) : s.regBlock x ≠ [] :=
  List.ne_nil_of_length_pos (by rw [State.regBlock_length]; omega)

/-- Settles O48: the block of registers is stored from `I`, or nothing is. -/
theorem storeRegsStoresTheBlock : Obligations.StoreRegsStoresTheBlock := by
  intro x s
  have hlen := s.regBlock_length x
  rw [exec_storeRegs]
  refine ⟨fun h => ?_, fun h => ?_⟩
  · obtain ⟨t, hexec, hbyte, hother, hpc, hframe⟩ := s.storeFromI_of_le (s.regBlock x) (by rw [hlen, Config.memSize]; omega)
    refine ⟨t, hexec, fun k hk => ?_, fun a ha => hother a (by omega), hpc, hframe⟩
    rw [hbyte k.val (by omega), s.regBlock_getD x k hk]
  · exact ⟨_, s.storeFromI_of_gt _ (s.regBlock_ne_nil x) (by rw [hlen, Config.memSize]; omega), rfl, fun _ => rfl⟩

end Sys2Proof.Machine
end

section
/-! SUPPORT. ReadRegs: the registers after a block was loaded from `I` upward, and the raise where the block ends beyond memory (R185). -/

namespace Sys2Proof.Machine

/-- The meaning of ReadRegs (R185). -/
theorem exec_readRegs (x : Reg) (s : State) : exec (.readRegs x) s =
    s.orRaise .outOfBoundsMemoryAccess ((s.loadBlock s.base (blockLen x)).map fun bs => (s.setRegs bs).advance) := rfl

/-- The bytes a block of V[0] to V[x] receives from `I` upward. -/
def State.memBlock (s : State) (x : Reg) : List Byte := (List.range' s.base (blockLen x)).map s.mem.read

theorem State.memBlock_length (s : State) (x : Reg) : (s.memBlock x).length = x.val + 1 := by
  simp [State.memBlock, blockLen]

/-- Within the block a register receives the byte of its place. -/
theorem State.getV_setRegs_memBlock_of_le (s : State) {x k : Reg} (h : k.val ≤ x.val) :
    (s.setRegs (s.memBlock x)).getV k = s.mem.read (s.I.toNat + k.val) := by
  rw [State.getV_setRegs, List.getD_eq_getElem _ _ (by rw [State.memBlock_length]; omega)]
  simp [State.memBlock, State.base]

/-- Above the block a register keeps its value. -/
theorem State.getV_setRegs_memBlock_of_lt (s : State) {x k : Reg} (h : x.val < k.val) :
    (s.setRegs (s.memBlock x)).getV k = s.getV k := by
  rw [State.getV_setRegs, List.getD_eq_default _ _ (by rw [State.memBlock_length]; omega)]

/-- In range, ReadRegs loads the block. -/
theorem exec_readRegs_of_lt {x : Reg} {s : State} (h : s.I.toNat + x.val < Config.memSize) :
    exec (.readRegs x) s = .next (s.setRegs (s.memBlock x)).advance := by
  have hblock : s.loadBlock s.base (blockLen x) = some (s.memBlock x) := s.loadBlock_of_le h
  rw [exec_readRegs, hblock, Option.map_some, State.orRaise_some]

/-- Out of range, ReadRegs loads nothing and raises. -/
theorem exec_readRegs_of_le {x : Reg} {s : State} (h : Config.memSize ≤ s.I.toNat + x.val) :
    exec (.readRegs x) s = .next (raise .outOfBoundsMemoryAccess s) := by
  have hblock : s.loadBlock s.base (blockLen x) = none := s.loadBlock_of_gt (Nat.succ_ne_zero _) (Nat.lt_succ_of_le h)
  rw [exec_readRegs, hblock, Option.map_none, State.orRaise_none]

/-- Settles O49: the block is loaded into V[0] to V[x], or no register is written. -/
theorem readRegsLoadsTheBlock : Obligations.ReadRegsLoadsTheBlock := by
  refine fun x s => ⟨fun h => ?_, fun h => ⟨_, exec_readRegs_of_le h, rfl, fun _ => rfl⟩⟩
  refine ⟨_, exec_readRegs_of_lt h, fun k hk => ?_, fun k hk => ?_, rfl, frame_setRegs s _⟩
  · rw [State.getV_advance, s.getV_setRegs_memBlock_of_le hk, s.memRead_of_lt (by rw [Config.memSize]; omega)]
  · rw [State.getV_advance, s.getV_setRegs_memBlock_of_lt hk]

end Sys2Proof.Machine
end

section
/-! SUPPORT. The meaning of Clear, a blank frame buffer with the `clear` event, and the frame of that shape (R201). -/

namespace Sys2Proof.Machine

/-- The meaning of Clear (R201). -/
theorem exec_clear (s : State) : exec .clear s = .next ((s.setFb FrameBuffer.off).setDisplay (some .clear)).advance := rfl

/-- The frame buffer, the display event and `pc` are written. -/
theorem frame_setFb_setDisplay (s : State) (fb : FrameBuffer) (e : Option DisplayEvent) :
    Frame [.frameBuffer, .display] s ((s.setFb fb).setDisplay e).advance := by
  refine ⟨fun p hp => ?_, rfl, rfl, rfl, rfl, rfl⟩
  cases p with
  | frameBuffer | display => simp at hp
  | regs | index | stack | delay | sound | memory | decodeFail => simp [Piece.same]

/-- Settles O51: the frame buffer becomes the blank one whatever it was, and the event is emitted with no look at it. -/
theorem clearTurnsEveryPixelOff : Obligations.ClearTurnsEveryPixelOff :=
  fun s => ⟨_, exec_clear s, FrameBuffer.pixel_off, rfl, rfl, frame_setFb_setDisplay s _ _⟩

end Sys2Proof.Machine
end

section
/-! SUPPORT. A load that is in order, the first operation after reset: what it answers on either side of the program space's size (R282). -/

namespace Sys2Proof.Machine

/-- A program that fits replaces the memory and marks the machine as loaded; its bytes stand from 0x200 upward, every other byte is
as before. -/
theorem load_of_le {s : State} (hlife : s.life = .constructed) {bytes : List Byte} (hlen : bytes.length ≤ Config.progMax) :
    ∃ m : Memory, load bytes s = .next ((s.setMem m).setLife .loaded) ∧
      ∀ a, m.read a = if Config.progBase ≤ a ∧ a < Config.progBase + bytes.length then bytes.getD (a - Config.progBase) 0
        else s.mem.read a := by
  have hfits : Config.progBase + bytes.length ≤ Config.memSize := Nat.add_le_add_left hlen Config.progBase
  obtain ⟨m, hstore, hread, -⟩ := s.storeBlock_of_le Config.progBase bytes (.inr hfits)
  exact ⟨m, by simp [load, hlife, Nat.not_lt.2 hlen, hstore], hread⟩

/-- A program that does not fit is rejected, before any byte is stored. -/
theorem load_of_gt {s : State} (hlife : s.life = .constructed) {bytes : List Byte} (hlen : Config.progMax < bytes.length) :
    load bytes s = .fault .programTooLarge := by
  simp [load, hlife, hlen]

/-- Settles O9: a program that fits replaces the memory, read byte by byte within the program and outside it; no other piece is
written. -/
theorem programLoad : Obligations.ProgramLoad := by
  refine fun s bytes hlife => ⟨fun hlen => ?_, load_of_gt hlife⟩
  obtain ⟨m, hload, hread⟩ := load_of_le hlife hlen
  refine ⟨_, hload, fun a (ha : a < Config.memSize) => ?_, rfl, rfl, rfl, rfl, rfl, rfl, rfl, rfl, rfl⟩
  rw [State.memRead_setLife, State.memRead_setMem, if_pos ha, hread, apply_ite some, ← s.memRead_of_lt ha]
  rfl

end Sys2Proof.Machine
end

section
/-! SUPPORT. Decoding and encoding undo each other (R90, R97): a word is its fields packed again, and the bits the decoder does not
examine are the ones the encoder writes 0 (R98). -/

namespace Sys2Proof

/-- Decoding undoes encoding: the second dispatch finds the code the encoder packed; for SYS the two literal words are shut out. -/
theorem decode_encode {i : Instr} (h : i.wellFormed = true) : decode (encode i) = .ok i := by
  cases i with
  | sys nnn =>
    have hne : nnn ≠ 0x0E0 ∧ nnn ≠ 0x0EE := by simpa [Instr.wellFormed] using h
    have hword : ∀ a : Addr, nnn ≠ a → packNNN 0x0 nnn ≠ packNNN 0x0 a := fun a ha e => ha (by simpa using congrArg nnnOf e)
    rw [encode, decode_of_famOf_zero (famOf_packNNN 0x0 nnn), decode0_of_ne (hword _ hne.1) (hword _ hne.2), nnnOf_packNNN]
  | clear | ret => rfl
  | _ => simp [encode, decode, decode8, decode9, decodeE, decodeF]

/-- Settles O2: the two bytes of a word give the word back, and what is left is not looked at. -/
theorem decodeInvertsEncode : Obligations.DecodeInvertsEncode := by
  intro i rest h
  simp only [encodeBytes, bytesOfWord, List.cons_append, List.nil_append, decodeBytes, wordOfBytes_bytesOfWord, decode_encode h]

-- A word whose family, and where there is one whose secondary code, is known is its fields packed again.

theorem packNNN_fields {w : Word} {op : BitVec 4} (h : famOf w = op) : packNNN op (nnnOf w) = w := by
  apply BitVec.eq_of_toNat_eq
  rw [toNat_packNNN, ← h, famOf_toNat, nnnOf_toNat]
  omega

theorem packXKK_fields {w : Word} {op : BitVec 4} {kk : Byte} (h : famOf w = op) (hk : kkOf w = kk) :
    packXKK op (xOf w) kk = w := by
  apply BitVec.eq_of_toNat_eq
  rw [toNat_packXKK, ← h, ← hk, famOf_toNat, xOf_val, kkOf_toNat]
  omega

theorem packXYN_fields {w : Word} {op : BitVec 4} {n : Nibble} (h : famOf w = op) (hn : nOf w = n) :
    packXYN op (xOf w) (yOf w) n = w := by
  apply BitVec.eq_of_toNat_eq
  rw [toNat_packXYN, ← h, ← hn, famOf_toNat, xOf_val, yOf_val, nOf_toNat]
  omega

/-- With the low nibble packed as 0 (R98). -/
theorem packXYN_fields_clear_n {w : Word} {op : BitVec 4} (h : famOf w = op) :
    packXYN op (xOf w) (yOf w) 0x0 = w &&& 0xFFF0 := by
  subst h
  exact ((and_parts w 0xF#4 0xF#4 0xF#4 0#4).trans (by simp only [and_ones, BitVec.and_zero]; rfl)).symm

/-- With the field `y` packed as 0 (R98). -/
theorem packXYN_fields_clear_y {w : Word} {op : BitVec 4} {n : Nibble} (h : famOf w = op) (hn : nOf w = n) :
    packXYN op (xOf w) 0 n = w &&& 0xFF0F := by
  subst h hn
  exact ((and_parts w 0xF#4 0xF#4 0#4 0xF#4).trans (by simp only [and_ones, BitVec.and_zero]; rfl)).symm

/-- The bits of its word that the decoder examines or takes an operand from (R98). -/
def Instr.examined : Instr → Word
  | .skipEq _ _ => 0xFFF0
  | .shiftR _ | .shiftL _ => 0xFF0F
  | _ => 0xFFFF

/-- The instruction is well-formed and its word is `w` on the examined bits. -/
def Reencodes (w : Word) (i : Instr) : Prop := i.wellFormed = true ∧ encode i = w &&& i.examined

theorem reencodes_of_encode_eq {w : Word} {i : Instr} (hwf : i.wellFormed = true) (hex : i.examined = 0xFFFF)
    (h : encode i = w) : Reencodes w i :=
  ⟨hwf, by rw [h, hex, and_FFFF]⟩

theorem reencodes_of_decode0 {w : Word} {i : Instr} (hfam : famOf w = 0) (h : decode0 w = .ok i) : Reencodes w i := by
  unfold decode0 at h
  split at h
  case isTrue hw => cases h; exact reencodes_of_encode_eq rfl rfl hw.symm
  split at h
  case isTrue hw => cases h; exact reencodes_of_encode_eq rfl rfl hw.symm
  rename_i hclear hret
  cases h
  have hne : ∀ a : Addr, w ≠ packNNN 0x0 a → nnnOf w ≠ a := fun a hw e => hw (by rw [← e, packNNN_fields hfam])
  exact reencodes_of_encode_eq (by simpa [Instr.wellFormed] using ⟨hne _ hclear, hne _ hret⟩) rfl (packNNN_fields hfam)

theorem reencodes_of_decode8 {w : Word} {i : Instr} (hfam : famOf w = 0x8) (h : decode8 w = .ok i) : Reencodes w i := by
  unfold decode8 at h
  split at h <;> rename_i hn <;> cases h
  case h_7 | h_9 => exact ⟨rfl, packXYN_fields_clear_y hfam hn⟩
  all_goals exact reencodes_of_encode_eq rfl rfl (packXYN_fields hfam hn)

theorem reencodes_of_decode9 {w : Word} {i : Instr} (hfam : famOf w = 0x9) (h : decode9 w = .ok i) : Reencodes w i := by
  unfold decode9 at h
  split at h <;> rename_i hn <;> cases h
  exact reencodes_of_encode_eq rfl rfl (packXYN_fields hfam hn)

theorem reencodes_of_decodeE {w : Word} {i : Instr} (hfam : famOf w = 0xE) (h : decodeE w = .ok i) : Reencodes w i := by
  unfold decodeE at h
  split at h <;> rename_i hk <;> cases h
  all_goals exact reencodes_of_encode_eq rfl rfl (packXKK_fields hfam hk)

theorem reencodes_of_decodeF {w : Word} {i : Instr} (hfam : famOf w = 0xF) (h : decodeF w = .ok i) : Reencodes w i := by
  unfold decodeF at h
  split at h <;> rename_i hk <;> cases h
  all_goals exact reencodes_of_encode_eq rfl rfl (packXKK_fields hfam hk)

/-- Encoding undoes decoding on the examined bits, family by family. -/
theorem reencodes_of_decode {w : Word} {i : Instr} (h : decode w = .ok i) : Reencodes w i := by
  unfold decode at h
  split at h <;> rename_i hfam
  case h_1 => exact reencodes_of_decode0 hfam h
  case h_9 => exact reencodes_of_decode8 hfam h
  case h_10 => exact reencodes_of_decode9 hfam h
  case h_15 => exact reencodes_of_decodeE hfam h
  case h_16 => exact reencodes_of_decodeF hfam h
  all_goals cases h
  case h_6 => exact ⟨rfl, packXYN_fields_clear_n hfam⟩
  case h_14 => exact reencodes_of_encode_eq rfl rfl (packXYN_fields hfam rfl)
  case h_2 | h_3 | h_11 | h_12 => exact reencodes_of_encode_eq rfl rfl (packNNN_fields hfam)
  case h_4 | h_5 | h_7 | h_8 | h_13 => exact reencodes_of_encode_eq rfl rfl (packXKK_fields hfam rfl)

/-- Settles O3: the bits the decoder does not examine are all but the mask `Instr.examined`. -/
theorem encodeInvertsDecode : Obligations.EncodeInvertsDecode := by
  intro w i h
  obtain ⟨hwf, henc⟩ := reencodes_of_decode h
  refine ⟨hwf, henc.trans ?_⟩
  cases i with
  | skipEq | shiftR | shiftL => rfl
  | _ => exact and_FFFF w

end Sys2Proof
end

section
/-! SUPPORT. The decoder and the opcode table agree (R97, R105): only the rows of a word's own family can match it, and within a family
the rows are told apart by the code of the second dispatch. -/

namespace Sys2Proof

/-- The rows of one family. -/
def familyRows (f : BitVec 4) : List OpcodeRow := opcodeTable.filter fun r => famOf r.pattern == f

theorem famOf_and (w m : Word) : famOf (w &&& m) = famOf w &&& famOf m := BitVec.extractLsb'_and

/-- Every mask holds the family's bits. -/
theorem famOf_mask : ∀ r ∈ opcodeTable, famOf r.mask = 0xF#4 := by decide

theorem firstRow_eq_familyRows {w : Word} {f : BitVec 4} (hfam : famOf w = f) :
    firstRow w = (familyRows f).find? fun r => w &&& r.mask == r.pattern := by
  rw [firstRow, familyRows, List.find?_filter]
  refine List.find?_congr fun r hr => ?_
  by_cases h : w &&& r.mask = r.pattern
  · have hf : famOf r.pattern = f := by rw [← h, famOf_and, famOf_mask r hr, and_ones, hfam]
    simp [h, hf]
  · simp [h]

/-- A family of one row, told by the family alone. -/
theorem firstRow_of_family {w : Word} {f : BitVec 4} {r : OpcodeRow} (hfam : famOf w = f) (hrows : familyRows f = [r])
    (hmask : r.mask = 0xF000) (hpattern : r.pattern = packNNN f 0) : firstRow w = some r := by
  have hmatch : w &&& r.mask = r.pattern := by
    apply BitVec.eq_of_toNat_eq
    rw [hmask, and_F000, hpattern, toNat_packNNN, ← hfam, famOf_toNat]
    simp
  rw [firstRow_eq_familyRows hfam, hrows, List.find?_cons_of_pos (by simp [hmatch])]

/-- A family told apart by the low nibble (R95, R96). -/
theorem firstRow_of_lowNibble {w : Word} {f : BitVec 4} (hfam : famOf w = f)
    (hrows : ∀ r ∈ familyRows f, r.mask = 0xF00F ∧ r.pattern = packXYN f 0 0 (nOf r.pattern)) :
    firstRow w = (familyRows f).find? fun r => nOf w == nOf r.pattern := by
  rw [firstRow_eq_familyRows hfam]
  refine List.find?_congr fun r hr => ?_
  obtain ⟨hmask, hpattern⟩ := hrows r hr
  have hnum := congrArg BitVec.toNat hpattern
  rw [toNat_packXYN, ← hfam, famOf_toNat, Fin.val_zero] at hnum
  rw [Bool.eq_iff_iff, beq_iff_eq, beq_iff_eq, hmask, ← BitVec.toNat_inj, ← BitVec.toNat_inj, and_F00F, hnum, nOf_toNat, nOf_toNat]
  omega

/-- A family told apart by the low byte (R96). -/
theorem firstRow_of_lowByte {w : Word} {f : BitVec 4} (hfam : famOf w = f)
    (hrows : ∀ r ∈ familyRows f, r.mask = 0xF0FF ∧ r.pattern = packXKK f 0 (kkOf r.pattern)) :
    firstRow w = (familyRows f).find? fun r => kkOf w == kkOf r.pattern := by
  rw [firstRow_eq_familyRows hfam]
  refine List.find?_congr fun r hr => ?_
  obtain ⟨hmask, hpattern⟩ := hrows r hr
  have hnum := congrArg BitVec.toNat hpattern
  rw [toNat_packXKK, ← hfam, famOf_toNat, Fin.val_zero] at hnum
  rw [Bool.eq_iff_iff, beq_iff_eq, beq_iff_eq, hmask, ← BitVec.toNat_inj, ← BitVec.toNat_inj, and_F0FF, hnum, kkOf_toNat,
    kkOf_toNat]
  omega

/-- What the decoder answered for `w` is what the table has. -/
def AgreesWithTable (w : Word) : Except DecodeError Instr → Prop
  | .ok i => (firstRow w).map OpcodeRow.mnemonic = some i.mnemonic
  | .error e => e = .unknownOpcode ∧ firstRow w = none

theorem agreesWithTable_of_row {w : Word} {i : Instr} {r : OpcodeRow} (hrow : firstRow w = some r)
    (hname : r.mnemonic = i.mnemonic) : AgreesWithTable w (.ok i) := by
  simp [AgreesWithTable, hrow, hname]

theorem decode0_agrees {w : Word} (hfam : famOf w = 0x0) : AgreesWithTable w (decode0 w) := by
  unfold decode0
  split
  case isTrue hw => subst w; exact agreesWithTable_of_row rfl rfl
  split
  case isTrue hw => subst w; exact agreesWithTable_of_row rfl rfl
  rename_i hclear hret
  have hsys : w &&& 0xF000 = 0x0000 := by
    apply BitVec.eq_of_toNat_eq
    rw [and_F000, ← famOf_toNat, hfam]
    rfl
  refine agreesWithTable_of_row (r := ⟨"SYS", 0x0000, 0xF000⟩) ?_ rfl
  rw [firstRow_eq_familyRows hfam]
  change [OpcodeRow.mk "Clear" 0x00E0 0xFFFF, ⟨"Return", 0x00EE, 0xFFFF⟩, ⟨"SYS", 0x0000, 0xF000⟩].find? _ = _
  simp [show w &&& 65535#16 = w from and_FFFF w, show ¬w = 224#16 from hclear, show ¬w = 238#16 from hret,
    show w &&& 61440#16 = 0#16 from hsys]

/-- Where no code of the family's rows is the one of `w`, no row matches. -/
theorem find?_familyRows_eq_none {β : Type} [DecidableEq β] {f : BitVec 4} {code : Word → β} {c : β}
    (h : c ∉ (familyRows f).map fun r => code r.pattern) : (familyRows f).find? (fun r => c == code r.pattern) = none :=
  List.find?_eq_none.2 fun r hr hc => h (List.mem_map.2 ⟨r, hr, (beq_iff_eq.1 hc).symm⟩)

theorem decode8_agrees {w : Word} (hfam : famOf w = 0x8) : AgreesWithTable w (decode8 w) := by
  have hrow := firstRow_of_lowNibble hfam (by decide)
  unfold decode8
  split
  case h_10 =>
    refine ⟨rfl, hrow.trans (find?_familyRows_eq_none ?_)⟩
    change nOf w ∉ [0x0, 0x1, 0x2, 0x3, 0x4, 0x5, 0x6, 0x7, 0xE]
    simp_all
  all_goals
    rename_i hn
    rw [hn] at hrow
    exact agreesWithTable_of_row hrow rfl

theorem decode9_agrees {w : Word} (hfam : famOf w = 0x9) : AgreesWithTable w (decode9 w) := by
  have hrow := firstRow_of_lowNibble hfam (by decide)
  unfold decode9
  split <;> rename_i hn
  · rw [hn] at hrow
    exact agreesWithTable_of_row hrow rfl
  · exact ⟨rfl, hrow.trans (find?_familyRows_eq_none (List.mem_singleton.not.2 hn))⟩

theorem decodeE_agrees {w : Word} (hfam : famOf w = 0xE) : AgreesWithTable w (decodeE w) := by
  have hrow := firstRow_of_lowByte hfam (by decide)
  unfold decodeE
  split
  case h_3 =>
    refine ⟨rfl, hrow.trans (find?_familyRows_eq_none ?_)⟩
    change kkOf w ∉ [0x9E, 0xA1]
    simp_all
  all_goals
    rename_i hk
    rw [hk] at hrow
    exact agreesWithTable_of_row hrow rfl

theorem decodeF_agrees {w : Word} (hfam : famOf w = 0xF) : AgreesWithTable w (decodeF w) := by
  have hrow := firstRow_of_lowByte hfam (by decide)
  unfold decodeF
  split
  case h_10 =>
    refine ⟨rfl, hrow.trans (find?_familyRows_eq_none ?_)⟩
    change kkOf w ∉ [0x07, 0x0A, 0x15, 0x18, 0x1E, 0x29, 0x33, 0x55, 0x65]
    simp_all
  all_goals
    rename_i hk
    rw [hk] at hrow
    exact agreesWithTable_of_row hrow rfl

/-- The last line of `decode` is never reached: the family is one of 16. -/
theorem mem_families (f : BitVec 4) : f ∈ [0x0, 0x1, 0x2, 0x3, 0x4, 0x5, 0x6, 0x7, 0x8, 0x9, 0xA, 0xB, 0xC, 0xD, 0xE, 0xF] := by
  revert f
  decide

theorem decode_agrees (w : Word) : AgreesWithTable w (decode w) := by
  unfold decode
  split <;> rename_i hfam
  case h_1 => exact decode0_agrees hfam
  case h_9 => exact decode8_agrees hfam
  case h_10 => exact decode9_agrees hfam
  case h_15 => exact decodeE_agrees hfam
  case h_16 => exact decodeF_agrees hfam
  case h_17 => exact absurd (mem_families (famOf w)) (by simp_all)
  all_goals exact agreesWithTable_of_row (firstRow_of_family hfam rfl rfl rfl) rfl

/-- Settles O4: each family's part of the decoder agrees with the family's rows. -/
theorem decodeIsFirstMatch : Obligations.DecodeIsFirstMatch := decode_agrees

end Sys2Proof
end

section
/-! SUPPORT. The decoder on sample words, and the words that are UnknownOpcode (R99): in each of the families with a second dispatch, the
codes it does not have. -/

namespace Sys2Proof

/-- Settles O1: the decoder evaluates each word. -/
theorem sampleWordsDecode : Obligations.SampleWordsDecode :=
  ⟨rfl, rfl, rfl, rfl, rfl, rfl, rfl, rfl, rfl, rfl, rfl, rfl, rfl, rfl, rfl⟩

theorem decode0_ne_unknown (w : Word) : decode0 w ≠ .error .unknownOpcode := by
  unfold decode0
  repeat' split
  all_goals simp

theorem decode8_unknown_iff (w : Word) :
    decode8 w = .error .unknownOpcode ↔ w.toNat % 16 ∈ [0x8, 0x9, 0xA, 0xB, 0xC, 0xD, 0xF] := by
  rw [← nOf_toNat]
  unfold decode8
  split
  case h_10 =>
    have hcodes : ∀ n : Nibble, n ∈ [0x0, 0x1, 0x2, 0x3, 0x4, 0x5, 0x6, 0x7, 0xE] ∨
        n.toNat ∈ [0x8, 0x9, 0xA, 0xB, 0xC, 0xD, 0xF] := by decide
    have := hcodes (nOf w)
    simp_all
  all_goals rename_i hn; simp [hn]

theorem decode9_unknown_iff (w : Word) : decode9 w = .error .unknownOpcode ↔ w.toNat % 16 ≠ 0 := by
  rw [← nOf_toNat]
  unfold decode9
  split <;> simp_all [← BitVec.toNat_inj]

theorem decodeE_unknown_iff (w : Word) : decodeE w = .error .unknownOpcode ↔ w.toNat % 256 ∉ [0x9E, 0xA1] := by
  rw [← kkOf_toNat]
  unfold decodeE
  split <;> simp_all [← BitVec.toNat_inj]

theorem decodeF_unknown_iff (w : Word) : decodeF w = .error .unknownOpcode ↔
    w.toNat % 256 ∉ [0x07, 0x0A, 0x15, 0x18, 0x1E, 0x29, 0x33, 0x55, 0x65] := by
  rw [← kkOf_toNat]
  unfold decodeF
  split <;> simp_all [← BitVec.toNat_inj]

/-- Settles O5: each family's part of the decoder has its own set, and the other families decode every word. -/
theorem unknownOpcodeSet : Obligations.UnknownOpcodeSet := by
  intro w
  rw [← decode8_unknown_iff, ← decode9_unknown_iff, ← decodeE_unknown_iff, ← decodeF_unknown_iff, ← famOf_toNat]
  unfold decode
  split <;> rename_i hfam
  case h_17 => exact absurd (mem_families (famOf w)) (by simp_all)
  all_goals simp [hfam, decode0_ne_unknown]

end Sys2Proof
end

section
/-! SUPPORT. The instructions that write one register and VF as a flag (R166 to R170, R173): the numbers of the results and the flags,
and what the two writes leave where the destination is VF itself. -/

namespace Sys2Proof.Machine

/-- The meaning of Add (R166). -/
theorem exec_add (x y : Reg) (s : State) : exec (.add x y) s =
    .next (s.resultThenFlag x (s.getV x + s.getV y) (carryFlag (s.getV x) (s.getV y))) := rfl

/-- The meaning of Sub (R167). -/
theorem exec_sub (x y : Reg) (s : State) : exec (.sub x y) s =
    .next (s.resultThenFlag x (s.getV x - s.getV y) (notBorrowFlag (s.getV x) (s.getV y))) := rfl

/-- The meaning of SubN (R168). -/
theorem exec_subN (x y : Reg) (s : State) : exec (.subN x y) s =
    .next (s.resultThenFlag x (s.getV y - s.getV x) (notBorrowFlag (s.getV y) (s.getV x))) := rfl

/-- The meaning of ShiftR (R169). -/
theorem exec_shiftR (x : Reg) (s : State) : exec (.shiftR x) s =
    .next (s.flagThenResult x (shiftROut (s.getV x)) (s.getV x >>> 1)) := rfl

/-- The meaning of ShiftL (R170). -/
theorem exec_shiftL (x : Reg) (s : State) : exec (.shiftL x) s =
    .next (s.flagThenResult x (shiftLOut (s.getV x)) (s.getV x <<< 1)) := rfl

theorem flagByte_decide (p : Prop) [Decidable p] : flagByte (decide p) = if p then 1 else 0 := by
  by_cases h : p <;> simp [flagByte, h]

theorem carryFlag_eq (a b : Byte) : carryFlag a b = if a.toNat + b.toNat > 255 then 1 else 0 := flagByte_decide _

theorem notBorrowFlag_eq (a b : Byte) : notBorrowFlag a b = if a.toNat ≥ b.toNat then 1 else 0 := flagByte_decide _

theorem flagByte_toNat (b : Bool) : (flagByte b).toNat = b.toNat := by cases b <;> rfl

theorem shiftROut_toNat (a : Byte) : (shiftROut a).toNat = a.toNat % 2 := by
  rw [shiftROut, flagByte_toNat, BitVec.getLsbD, Nat.toNat_testBit, Nat.pow_zero, Nat.div_one]

theorem shiftLOut_toNat (a : Byte) : (shiftLOut a).toNat = a.toNat / 128 := by
  rw [shiftLOut, flagByte_toNat, BitVec.getLsbD, Nat.toNat_testBit]
  omega

/-- The difference of two bytes is the difference of their numbers modulo 256 (R172). -/
theorem byte_sub_toNat (a b : Byte) : ((a - b).toNat : Int) = (a.toNat - b.toNat : Int) % 256 := by
  rw [BitVec.toNat_sub]
  omega

theorem byte_ushiftRight_one_toNat (a : Byte) : (a >>> 1).toNat = a.toNat / 2 := by
  rw [BitVec.toNat_ushiftRight, Nat.shiftRight_eq_div_pow, Nat.pow_one]

theorem byte_shiftLeft_one_toNat (a : Byte) : (a <<< 1).toNat = a.toNat * 2 % 256 := by
  rw [BitVec.toNat_shiftLeft, Nat.shiftLeft_eq, Nat.pow_one]

/-- Settles O41: each of the three writes its result and then its flag, whose numbers are the lemmas above. -/
theorem arithmeticWithFlag : Obligations.ArithmeticWithFlag := by
  intro x y s hx
  obtain ⟨hadd, haddF, haddRest⟩ := s.resultThenFlag_spec x (s.getV x + s.getV y) (carryFlag (s.getV x) (s.getV y)) hx
  obtain ⟨hsub, hsubF, hsubRest⟩ := s.resultThenFlag_spec x (s.getV x - s.getV y) (notBorrowFlag (s.getV x) (s.getV y)) hx
  obtain ⟨hsubN, hsubNF, hsubNRest⟩ := s.resultThenFlag_spec x (s.getV y - s.getV x) (notBorrowFlag (s.getV y) (s.getV x)) hx
  refine ⟨_, _, _, exec_add x y s, exec_sub x y s, exec_subN x y s, ?_, ?_, ?_, ?_, ?_, ?_, ?_⟩
  · rw [hadd, BitVec.toNat_add]
  · rw [haddF, carryFlag_eq]
  · rw [hsub, byte_sub_toNat]
  · rw [hsubF, notBorrowFlag_eq]
  · rw [hsubN, byte_sub_toNat]
  · rw [hsubNF, notBorrowFlag_eq]
  · rintro q (rfl | rfl | rfl)
    exacts [haddRest, hsubRest, hsubNRest]

/-- Settles O42: both write the flag and then the shifted value, whose numbers are the lemmas above. -/
theorem shiftsReportTheBitShiftedOut : Obligations.ShiftsReportTheBitShiftedOut := by
  intro x s hx
  obtain ⟨hright, hrightF, hrightRest⟩ := s.flagThenResult_spec x (s.getV x >>> 1) (shiftROut (s.getV x)) hx
  obtain ⟨hleft, hleftF, hleftRest⟩ := s.flagThenResult_spec x (s.getV x <<< 1) (shiftLOut (s.getV x)) hx
  refine ⟨_, _, exec_shiftR x s, exec_shiftL x s, ?_, ?_, ?_, ?_, ?_⟩
  · rw [hright, byte_ushiftRight_one_toNat]
  · rw [hrightF, shiftROut_toNat]
  · rw [hleft, byte_shiftLeft_one_toNat]
  · rw [hleftF, shiftLOut_toNat]
  · rintro q (rfl | rfl)
    exacts [hrightRest, hleftRest]

/-- The later write to a register remains. -/
theorem State.setV_setV_same (s : State) (r : Reg) (a b : Byte) : (s.setV r a).setV r b = s.setV r b := by
  simp [State.setV]

/-- With VF as the destination the flag remains (R173). -/
theorem State.resultThenFlag_vf (s : State) (r f : Byte) : s.resultThenFlag 15 r f = (s.setV 15 f).advance :=
  congrArg State.advance (s.setV_setV_same 15 r f)

/-- With VF as the destination the result remains (R173). -/
theorem State.flagThenResult_vf (s : State) (f r : Byte) : s.flagThenResult 15 f r = (s.setV 15 r).advance :=
  congrArg State.advance (s.setV_setV_same 15 f r)

/-- Settles O43: of the two writes to VF the later one remains. -/
theorem flagRegisterAsDestination : Obligations.FlagRegisterAsDestination := by
  rintro y s _ _ rfl rfl
  refine ⟨⟨_, exec_add 15 y s, ?_⟩, ⟨_, exec_sub 15 y s, ?_⟩, ⟨_, exec_subN 15 y s, ?_⟩, ⟨_, exec_shiftR 15 s, ?_⟩,
    ⟨_, exec_shiftL 15 s, ?_⟩⟩
  · rw [State.resultThenFlag_vf, carryFlag_eq]
    exact writesOnly_setV s 15 _
  · rw [State.resultThenFlag_vf, notBorrowFlag_eq]
    exact writesOnly_setV s 15 _
  · rw [State.resultThenFlag_vf, notBorrowFlag_eq]
    exact writesOnly_setV s 15 _
  · rw [State.flagThenResult_vf, ← byte_ushiftRight_one_toNat, BitVec.ofNat_toNat, BitVec.setWidth_eq]
    exact writesOnly_setV s 15 _
  · rw [State.flagThenResult_vf, ← byte_shiftLeft_one_toNat, BitVec.ofNat_toNat, BitVec.setWidth_eq]
    exact writesOnly_setV s 15 _

end Sys2Proof.Machine
end

section
/-! SUPPORT. The other instructions that write one register or one of `I`, `dt`, `st`: LoadR, Rand, LoadSprite, the timers, LoadKey
(R162, R171, R182, R220 to R222, R225), and the skips on keys (R223, R224). -/

namespace Sys2Proof.Machine

/-- The meaning of LoadR (R162). -/
theorem exec_loadR (x y : Reg) (s : State) : exec (.loadR x y) s = .next (s.setV x (s.getV y)).advance := rfl

/-- The meaning of Rand (R171). -/
theorem exec_rand (x : Reg) (kk : Byte) (s : State) : exec (.rand x kk) s = .next (s.setV x (s.inp.rnd &&& kk)).advance := rfl

/-- The meaning of LoadSprite (R182). -/
theorem exec_loadSprite (x : Reg) (s : State) : exec (.loadSprite x) s =
    .next (s.setI (zext16 (s.getV x) * BitVec.ofNat 16 Config.glyphLen)).advance := rfl

/-- The meaning of LoadFromDT (R220). -/
theorem exec_loadFromDT (x : Reg) (s : State) : exec (.loadFromDT x) s = .next (s.setV x s.dt).advance := rfl

/-- The meaning of SetDT (R221). -/
theorem exec_setDT (x : Reg) (s : State) : exec (.setDT x) s = .next (s.setDt (s.getV x)).advance := rfl

/-- The meaning of SetST (R222). -/
theorem exec_setST (x : Reg) (s : State) : exec (.setST x) s = .next (s.setSt (s.getV x)).advance := rfl

/-- The meaning of SkipEqKey (R223). -/
theorem exec_skipEqKey (x : Reg) (s : State) : exec (.skipEqKey x) s = .next (s.skipIf (s.keyDown (s.getV x))) := rfl

/-- The meaning of SkipNeqKey (R224). -/
theorem exec_skipNeqKey (x : Reg) (s : State) : exec (.skipNeqKey x) s = .next (s.skipIf (!s.keyDown (s.getV x))) := rfl

/-- The meaning of LoadKey with a key latched (R225). -/
theorem exec_loadKey_of_some (x : Reg) {s : State} {c : KeyCode} (h : s.inp.lastKey = some c) :
    exec (.loadKey x) s = .next (s.setV x (keyByte c)).advance := by
  change execLoadKey x s = _
  rw [execLoadKey, h]

/-- The meaning of LoadKey with none latched (R225). -/
theorem exec_loadKey_of_none (x : Reg) {s : State} (h : s.inp.lastKey = none) : exec (.loadKey x) s = .next s := by
  change execLoadKey x s = _
  rw [execLoadKey, h]

/-- Settles O40: the byte written is the other register's. -/
theorem loadRegisterCopies : Obligations.LoadRegisterCopies :=
  fun x y s => ⟨_, exec_loadR x y s, writesOnly_setV s x _⟩

/-- Settles O44: the mask leaves no bit where its complement has one. -/
theorem randMasksTheRandomByte : Obligations.RandMasksTheRandomByte := by
  intro x kk s
  refine ⟨_, exec_rand x kk s, writesOnly_setV s x _, ?_⟩
  rw [State.getV_advance, State.getV_setV_same, BitVec.and_assoc, BitVec.and_not_self]
  exact BitVec.and_zero

/-- Settles O46: five times a byte is below 65536, so the product of the words is the one of the numbers. -/
theorem loadSpriteMultipliesByFive : Obligations.LoadSpriteMultipliesByFive := by
  intro x s
  refine ⟨_, exec_loadSprite x s, ?_, rfl, frame_setI s _⟩
  rw [State.advance_I, State.setI_I, BitVec.toNat_mul, zext16_toNat, BitVec.toNat_ofNat, Config.glyphLen]
  omega

/-- The delay timer and `pc` are written. -/
theorem frame_setDt (s : State) (b : Byte) : Frame [.delay] s (s.setDt b).advance := by
  refine ⟨fun p hp => ?_, rfl, rfl, rfl, rfl, rfl⟩
  cases p with
  | delay => exact absurd (List.mem_singleton_self _) hp
  | regs | index | stack | sound | frameBuffer | memory | display | decodeFail => simp [Piece.same]

/-- The sound timer and `pc` are written. -/
theorem frame_setSt (s : State) (b : Byte) : Frame [.sound] s (s.setSt b).advance := by
  refine ⟨fun p hp => ?_, rfl, rfl, rfl, rfl, rfl⟩
  cases p with
  | sound => exact absurd (List.mem_singleton_self _) hp
  | regs | index | stack | delay | frameBuffer | memory | display | decodeFail => simp [Piece.same]

/-- Settles O56: one reads `dt` into a register, two write their timer. -/
theorem timerInstructions : Obligations.TimerInstructions :=
  fun x s => ⟨⟨_, exec_loadFromDT x s, writesOnly_setV s x _⟩, ⟨_, exec_setDT x s, rfl, rfl, frame_setDt s _⟩,
    ⟨_, exec_setST x s, rfl, rfl, frame_setSt s _⟩⟩

/-- Settles O58: the latch decides between the register's write and nothing at all. -/
theorem loadKeyWaitsForTheLatch : Obligations.LoadKeyWaitsForTheLatch :=
  fun x s => ⟨fun _ h => ⟨_, exec_loadKey_of_some x h, writesOnly_setV s x _⟩, exec_loadKey_of_none x⟩

/-- A code of 16 or more names no key and is not down (D17). -/
theorem State.keyDown_of_ge (s : State) {b : Byte} (h : 16 ≤ b.toNat) : s.keyDown b = false := by
  simp [State.keyDown, Nat.not_lt.2 h]

/-- Settles O57: both skip on what `keyDown` answers, for the code of a key and for a code of none. -/
theorem keySkips : Obligations.KeySkips := by
  intro x s
  refine ⟨_, _, exec_skipEqKey x s, exec_skipNeqKey x s, frame_skipIf s _, frame_skipIf s _, fun k hk hdown => ?_,
    fun k hk hup => ?_, fun h => ?_⟩
  · rw [s.keyDown_of_lt _ k hk, hdown]
    exact ⟨rfl, rfl⟩
  · rw [s.keyDown_of_lt _ k hk, hup]
    exact ⟨rfl, rfl⟩
  · rw [s.keyDown_of_ge h]
    exact ⟨rfl, rfl⟩

end Sys2Proof.Machine
end

section
/-! SUPPORT. SYS, JumpAddV0, Call and Return (R126, R140, R142, R143): the stack below its depth, and the errors at its ends. -/

namespace Sys2Proof.Machine

/-- The meaning of JumpAddV0 (R143). -/
theorem exec_jumpAddV0 (nnn : Addr) (s : State) : exec (.jumpAddV0 nnn) s = .next (s.setPc (addrWord nnn + zext16 (s.getV v0))) := rfl

/-- The meaning of Call below depth 16 (R142). -/
theorem exec_call_of_lt (nnn : Addr) {s : State} {k : Fin 16} (h : s.sp.val = k.val) : exec (.call nnn) s =
    .next (((s.setStackEntry k (s.pc + 2)).setSp k.succ).setPc (addrWord nnn)) := by
  change execCall nnn s = _
  rw [execCall, s.push_of_lt _ k h, Option.map_some, State.orRaise_some]

/-- The meaning of Call at depth 16 (R142). -/
theorem exec_call_of_full (nnn : Addr) {s : State} (h : s.sp.val = 16) : exec (.call nnn) s = .next (raise .stackOverflow s) := by
  change execCall nnn s = _
  rw [execCall, s.push_of_full _ h, Option.map_none, State.orRaise_none]

/-- The meaning of Return with an entry in use (R140). -/
theorem exec_ret_of_pos {s : State} {k : Fin 16} (h : s.sp.val = k.val + 1) :
    exec .ret s = .next ((s.setSp k.castSucc).setPc s.stack[k]) := by
  change execRet s = _
  rw [execRet, s.pop_of_pos k h, Option.map_some, State.orRaise_some]

/-- The meaning of Return on an empty stack (R140). -/
theorem exec_ret_of_empty {s : State} (h : s.sp.val = 0) : exec .ret s = .next (raise .stackUnderflow s) := by
  change execRet s = _
  rw [execRet, s.pop_of_empty h, Option.map_none, State.orRaise_none]

/-- Settles O31: SYS advances `pc` and reads nothing. -/
theorem sysIsNoOp : Obligations.SysIsNoOp := fun nnn s => ⟨_, exec_sys nnn s, rfl, frame_setPc s _⟩

/-- The sum of an address and a byte has no carry out of 16 bits. -/
theorem addrWord_add_zext16_toNat (nnn : Addr) (b : Byte) : (addrWord nnn + zext16 b).toNat = nnn.toNat + b.toNat := by
  rw [BitVec.toNat_add, addrWord_toNat, zext16_toNat]
  omega

/-- Settles O33: the sum of the words is the one of the numbers, and both are bounded. -/
theorem jumpAddV0AddsWithoutReduction : Obligations.JumpAddV0AddsWithoutReduction := by
  intro nnn s
  have hsum := addrWord_add_zext16_toNat nnn (s.getV v0)
  exact ⟨_, exec_jumpAddV0 nnn s, hsum, by rw [State.setPc_pc, hsum]; omega, frame_setPc s _⟩

/-- Settles O34: below the depth the entry at `sp` is written and no other; at the depth the push answers none. -/
theorem callPushesReturnAddress : Obligations.CallPushesReturnAddress := by
  refine fun nnn s => ⟨fun k hk => ?_, fun h => ⟨_, exec_call_of_full nnn h, raisedFrom_raise _ s⟩⟩
  refine ⟨_, exec_call_of_lt nnn hk, addrWord_toNat nnn, rfl, ?_, fun j hj => ?_, frame_push s k _ _ _⟩
  · exact (s.setStackEntry_get k k _).trans (if_pos rfl)
  · exact (s.setStackEntry_get k j _).trans (if_neg hj)

/-- Settles O35: with an entry in use the pop answers it and leaves the entries; on an empty stack it answers none. -/
theorem returnPopsToPc : Obligations.ReturnPopsToPc :=
  fun s => ⟨fun _ hk => ⟨_, exec_ret_of_pos hk, rfl, rfl, rfl, frame_pop s _ _⟩,
    fun h => ⟨_, exec_ret_of_empty h, raisedFrom_raise _ s⟩⟩

/-- Settles O36: the Return pops the entry the Call pushed. -/
theorem callThenReturnResumes : Obligations.CallThenReturnResumes := by
  intro nnn s t u hsp hcall hu hstack
  obtain ⟨k, hk⟩ : ∃ k : Fin 16, s.sp.val = k.val := ⟨⟨s.sp.val, hsp⟩, rfl⟩
  rw [exec_call_of_lt nnn hk] at hcall
  cases hcall
  have hpos : u.sp.val = k.val + 1 := congrArg Fin.val hu
  refine ⟨addrWord_toNat nnn, _, exec_ret_of_pos hpos, ?_, Fin.ext hk.symm, fun _ => rfl⟩
  rw [State.setPc_pc, hstack]
  exact (s.setStackEntry_get k k _).trans (if_pos rfl)

end Sys2Proof.Machine
end

section
/-! SUPPORT. What StoreRegs stored is what ReadRegs loads (R184, R185) and what a fetch decodes (R75, D24). -/

namespace Sys2Proof.Machine

/-- The bytes StoreRegs leaves in memory. -/
theorem mem_read_of_exec_storeRegs {x : Reg} {s t : State} (h : s.I.toNat + x.val < 4096) (hexec : exec (.storeRegs x) s = .next t)
    {k : Reg} (hk : k.val ≤ x.val) : t.mem.read (s.I.toNat + k.val) = s.getV k := by
  obtain ⟨_, hnext, hbyte, -⟩ := (storeRegsStoresTheBlock x s).1 h
  cases hexec.symm.trans hnext
  exact (State.of_memRead_some (hbyte k hk)).2

/-- Settles O50: the block is loaded from the bytes it was stored to. -/
theorem storeThenReadRestoresRegisters : Obligations.StoreThenReadRestoresRegisters := by
  intro x s t u h hexec hmem hI
  have hrange : u.I.toNat + x.val < Config.memSize := by rw [hI]; exact h
  refine ⟨_, exec_readRegs_of_lt hrange, fun k hk => ?_, fun k hk => ?_⟩
  · rw [State.getV_advance, u.getV_setRegs_memBlock_of_le hk, hmem, hI, mem_read_of_exec_storeRegs h hexec hk]
  · rw [State.getV_advance, u.getV_setRegs_memBlock_of_lt hk]

/-- Settles O30: the two bytes at the fetch's address are the two registers stored there. -/
theorem fetchSeesStores : Obligations.FetchSeesStores := by
  intro s t x j hj i h hexec hdecode
  have hpc : (BitVec.ofNat 16 (s.I.toNat + j)).toNat = s.I.toNat + j := by rw [BitVec.toNat_ofNat]; omega
  have hbyte : ∀ k : Reg, k.val ≤ x.val → t.memRead (s.I.toNat + k.val) = some (s.getV k) := fun k hk => by
    rw [t.memRead_of_lt (by rw [Config.memSize]; omega), mem_read_of_exec_storeRegs h hexec hk]
  rw [State.fetchDecode_of_bytes _ (s.getV ⟨j, by omega⟩) (s.getV ⟨j + 1, by omega⟩), hdecode]
  · rw [State.memRead_setPc, State.setPc_pc, hpc]
    exact hbyte ⟨j, by omega⟩ (by simp; omega)
  · rw [State.memRead_setPc, State.setPc_pc, hpc]
    exact hbyte ⟨j + 1, by omega⟩ hj

end Sys2Proof.Machine
end

section
/-! SUPPORT. Draw (R202 to R204): the sprite in closed form, the frame of a Draw, a second Draw of the same sprite, and the display
sink's copy of the frame buffer. -/

namespace Sys2Proof.Machine

/-- The sprite bytes from `I` upward. -/
def State.spriteBytes (s : State) (n : Nibble) : List Byte := (List.range' s.base n.toNat).map s.mem.read

/-- The meaning of Draw (R202). -/
theorem exec_draw (x y : Reg) (n : Nibble) (s : State) : exec (.draw x y n) s =
    s.orRaise .outOfBoundsMemoryAccess ((s.loadBlock s.base n.toNat).map (s.drawn x y)) := rfl

/-- In range, Draw draws the sprite's bytes; a sprite of no rows is always in range (D7). -/
theorem exec_draw_of_le (x y : Reg) {n : Nibble} {s : State} (h : n.toNat = 0 ∨ s.I.toNat + n.toNat ≤ Config.memSize) :
    exec (.draw x y n) s = .next (s.drawn x y (s.spriteBytes n)) := by
  have hblock : s.loadBlock s.base n.toNat = some (s.spriteBytes n) := (s.loadBlock_eq _ _).trans (if_pos h)
  rw [exec_draw, hblock, Option.map_some, State.orRaise_some]

/-- Out of range, Draw draws nothing and raises. -/
theorem exec_draw_of_gt (x y : Reg) {n : Nibble} {s : State} (hn : n.toNat ≠ 0) (h : Config.memSize < s.I.toNat + n.toNat) :
    exec (.draw x y n) s = .next (raise .outOfBoundsMemoryAccess s) := by
  have hblock : s.loadBlock s.base n.toNat = none := s.loadBlock_of_gt hn h
  rw [exec_draw, hblock, Option.map_none, State.orRaise_none]

/-- Settles O53: the block of sprite bytes does not exist. -/
theorem drawOutOfRangeRaises : Obligations.DrawOutOfRangeRaises := fun x y n s hn h =>
  ⟨_, exec_draw_of_gt x y (by omega) (by rw [Config.memSize]; omega), raisedFrom_raise _ s⟩

/-- VF, the frame buffer, the display event and `pc` are written. -/
theorem frame_drawn (s : State) (x y : Reg) (bs : List Byte) : Frame [.regs, .frameBuffer, .display] s (s.drawn x y bs) := by
  refine ⟨fun p hp => ?_, rfl, rfl, rfl, rfl, rfl⟩
  cases p with
  | regs | frameBuffer | display => simp at hp
  | stack => exact ⟨rfl, rfl⟩
  | memory => exact fun _ => rfl
  | index | delay | sound | decodeFail => rfl

theorem State.drawn_mem (s : State) (x y : Reg) (bs : List Byte) : (s.drawn x y bs).mem = s.mem := rfl

theorem State.getV_drawn (s : State) (x y k : Reg) (bs : List Byte) : (s.drawn x y bs).getV k =
    if k = vf then flagByte (compose s.fb (s.getV x).toNat (s.getV y).toNat bs).collision else s.getV k :=
  (s.setFb _).getV_setFlag k _

/-- The loops of Draw toggle the pixels of the closed form. -/
theorem State.toggled_litPixels (s : State) (x y : Reg) (n : Nibble) :
    Toggled s.fb (litPixels s x y n) (compose s.fb (s.getV x).toNat (s.getV y).toNat (s.spriteBytes n)) := by
  have hlen : (s.spriteBytes n).length ≤ 32 := by
    rw [State.spriteBytes, List.length_map, List.length_range']
    omega
  have hclosed : rowsLit (s.getV x).toNat (s.getV y).toNat (s.spriteBytes n) = litPixels s x y n :=
    rowsLit_eq s.mem s.base (s.getV x).toNat (s.getV y).toNat n.toNat
  rw [← hclosed]
  exact toggled_compose s.fb _ _ _ hlen

/-- Settles O52: pixels, VF and event are the three parts of the toggled canvas. -/
theorem drawComposesTheSprite : Obligations.DrawComposesTheSprite := by
  intro x y n s h
  obtain ⟨hpixel, hcollision, hdiffs⟩ := s.toggled_litPixels x y n
  refine ⟨_, exec_draw_of_le x y h, hpixel, ?_, congrArg (fun ds => some (DisplayEvent.present ds)) hdiffs, fun r hr => ?_, rfl,
    frame_drawn s x y _⟩
  · rw [State.getV_drawn, vf, if_pos rfl, hcollision, flagByte_decide]
  · rw [State.getV_drawn, vf, if_neg hr]

/-- The pixels under a sprite depend on the memory, `I` and the two coordinates alone. -/
theorem litPixels_congr {s u : State} {x y : Reg} (n : Nibble) (hmem : u.mem = s.mem) (hI : u.I = s.I)
    (hx : u.getV x = s.getV x) (hy : u.getV y = s.getV y) : litPixels u x y n = litPixels s x y n := by
  simp only [litPixels, hmem, hI, hx, hy]

/-- Settles O54: toggling twice gives each pixel back, and the second Draw finds on what the first one found off. -/
theorem drawTwiceRestores : Obligations.DrawTwiceRestores := by
  intro x y n s t u h hexec hfb hmem hI hx hy
  have hlit := litPixels_congr n hmem hI hx hy
  obtain ⟨_, hfirst, hpixel, hflag, -⟩ := drawComposesTheSprite x y n s h
  cases hexec.symm.trans hfirst
  obtain ⟨v, hsecond, hpixel', hflag', -⟩ := drawComposesTheSprite x y n u (by rwa [hI])
  rw [hlit] at hflag'
  have hfound : ∀ p ∈ litPixels s x y n, u.fb.pixel p.1 p.2 = !s.fb.pixel p.1 p.2 := fun p hp => by
    rw [hfb, hpixel, decide_eq_true hp, Bool.xor_true]
  have hsecondFlag : v.getV 15 = if ∃ p ∈ litPixels s x y n, s.fb.pixel p.1 p.2 = false then 1 else 0 := by
    rw [hflag']
    refine if_congr (exists_congr fun p => and_congr_right fun hp => ?_) rfl rfl
    rw [hfound p hp, Bool.not_eq_true']
  refine ⟨v, hsecond, FrameBuffer.ext_pixel _ _ fun r c => ?_, hsecondFlag, fun hoff => ⟨?_, fun hne => ?_, fun hnil => ?_⟩⟩
  · rw [hpixel', hlit, hfb, hpixel, Bool.xor_assoc, Bool.xor_self, Bool.xor_false]
  · rw [hflag, if_neg]
    rintro ⟨p, hp, hon⟩
    exact absurd (hoff p hp) (by rw [hon]; decide)
  · obtain ⟨p, hp⟩ := List.exists_mem_of_ne_nil _ hne
    rw [hsecondFlag, if_pos ⟨p, hp, hoff p hp⟩]
  · rw [hsecondFlag, if_neg (by simp [hnil])]

/-- A sink that applies the records of toggled pixels: each of their pixels becomes what its record says, every other stays. -/
theorem pixel_foldl_applyDiff (f : FrameBuffer) (D : List (Row × Col)) (g : FrameBuffer) (r : Row) (c : Col) :
    ((D.map fun p => { col := p.2, row := p.1, on := !f.pixel p.1 p.2 : PixelDiff }).foldl applyDiff g).pixel r c =
      if (r, c) ∈ D then !f.pixel r c else g.pixel r c := by
  induction D generalizing g with
  | nil => rfl
  | cons p D ih =>
    rw [List.map_cons, List.foldl_cons, ih]
    by_cases hD : (r, c) ∈ D
    · rw [if_pos hD, if_pos (List.mem_cons_of_mem _ hD)]
    · rw [if_neg hD, applyDiff, FrameBuffer.pixel_setPixel]
      by_cases hp : r = p.1 ∧ c = p.2
      · obtain ⟨rfl, rfl⟩ := hp
        simp
      · have hne : (r, c) ≠ p := fun e => hp ⟨congrArg Prod.fst e, congrArg Prod.snd e⟩
        simp [hp, hne, hD]

/-- Applied to the frame buffer before the Draw, the records of the Draw give the one after it. -/
theorem applyEvent_of_toggled {f : FrameBuffer} {D : List (Row × Col)} {cv : Canvas} (h : Toggled f D cv) :
    applyEvent f (some (.present cv.diffs)) = cv.fb := by
  obtain ⟨hpixel, -, hdiffs⟩ := h
  refine FrameBuffer.ext_pixel _ _ fun r c => ?_
  rw [applyEvent, hdiffs, pixel_foldl_applyDiff, hpixel]
  by_cases hD : (r, c) ∈ D <;> simp [hD]

/-- After a Draw the sink's copy is the frame buffer (R204). -/
theorem State.applyEvent_drawn (s : State) (x y : Reg) (n : Nibble) :
    applyEvent s.fb (s.drawn x y (s.spriteBytes n)).display = (s.drawn x y (s.spriteBytes n)).fb :=
  applyEvent_of_toggled (s.toggled_litPixels x y n)

end Sys2Proof.Machine
end

section
/-! SUPPORT. What an instruction does, said once for all 35 forms: it raises the fatal error of its condition (R241), or it completes
and keeps to the tables (R24, R40). -/

namespace Sys2Proof.Machine

/-- From `s` to `t` the instruction kept to the spec's tables: `pc` by R24, the written pieces, registers and bytes by R40, and the
canonical form of the memory. -/
structure Completes (i : Instr) (s t : State) : Prop where
  pc : PcAfter i s t
  frame : Frame (writtenPieces i) s t
  regs : ∀ r, mayWriteReg i r = false → t.getV r = s.getV r
  bytes : ∀ a, (a < s.I.toNat ∨ s.I.toNat + storedLen i ≤ a) → t.memRead a = s.memRead a
  canonical : s.memCanonical → t.memCanonical

-- The shapes of a next state, each for every instruction of that shape.

section Shapes
variable {i : Instr} {s : State}

theorem completes_setPc {w : Word} (hpc : PcAfter i s (s.setPc w)) (hw : writtenPieces i = []) : Completes i s (s.setPc w) :=
  ⟨hpc, hw ▸ frame_setPc s w, fun _ _ => rfl, fun _ _ => rfl, id⟩

theorem ne_of_mayWriteReg {x r : Reg} (hx : mayWriteReg i x = true) (hr : mayWriteReg i r = false) : r ≠ x := by
  rintro rfl
  rw [hx] at hr
  cases hr

theorem completes_setV {x : Reg} {b : Byte} (hpc : PcAfter i s (s.setV x b).advance) (hw : writtenPieces i = [.regs])
    (hx : mayWriteReg i x = true) : Completes i s (s.setV x b).advance :=
  ⟨hpc, hw ▸ frame_setV s x b _, fun _ hr => s.getV_setV_ne b (ne_of_mayWriteReg hx hr), fun _ _ => rfl, id⟩

/-- Two registers and `pc` are written. -/
theorem frame_setV_setV (s : State) (x y : Reg) (a b : Byte) : Frame [.regs] s ((s.setV x a).setV y b).advance := by
  refine ⟨fun p hp => ?_, rfl, rfl, rfl, rfl, rfl⟩
  cases p with
  | regs => exact absurd (List.mem_singleton_self _) hp
  | index | stack | delay | sound | frameBuffer | memory | display | decodeFail => simp [Piece.same]

theorem completes_setV_setV {x y : Reg} {a b : Byte} (hpc : PcAfter i s ((s.setV x a).setV y b).advance)
    (hw : writtenPieces i = [.regs]) (hx : mayWriteReg i x = true) (hy : mayWriteReg i y = true) :
    Completes i s ((s.setV x a).setV y b).advance :=
  ⟨hpc, hw ▸ frame_setV_setV s x y a b,
    fun _ hr => ((s.setV x a).getV_setV_ne b (ne_of_mayWriteReg hy hr)).trans (s.getV_setV_ne a (ne_of_mayWriteReg hx hr)),
    fun _ _ => rfl, id⟩

theorem completes_setI {w : Word} (hpc : PcAfter i s (s.setI w).advance) (hw : writtenPieces i = [.index]) :
    Completes i s (s.setI w).advance :=
  ⟨hpc, hw ▸ frame_setI s w, fun _ _ => rfl, fun _ _ => rfl, id⟩

theorem completes_setRegs {bs : List Byte} (hpc : ∀ t : State, t.pc = s.pc + 2 → PcAfter i s t)
    (hw : writtenPieces i = [.regs]) (hregs : ∀ r, mayWriteReg i r = false → (s.setRegs bs).getV r = s.getV r) :
    Completes i s (s.setRegs bs).advance :=
  ⟨hpc _ (by rw [State.advance_pc, State.setRegs_pc]), hw ▸ frame_setRegs s bs, hregs,
    fun a _ => (State.memRead_advance _ a).trans (s.memRead_setRegs bs a),
    fun hwf => by rwa [State.memCanonical, State.advance_mem, State.setRegs_mem]⟩

/-- An instruction that stores a block within memory. -/
theorem completes_storeFromI {bs : List Byte} (h : s.I.toNat + bs.length ≤ Config.memSize)
    (hpc : ∀ m, PcAfter i s (s.setMem m).advance) (hw : writtenPieces i = [.memory]) (hlen : storedLen i = bs.length) :
    ∃ t, s.storeFromI bs = .next t ∧ Completes i s t := by
  obtain ⟨m, hstore, hread, hwf⟩ := s.storeBlock_of_le s.base bs (.inr h)
  refine ⟨(s.setMem m).advance, ?_, hpc m, hw ▸ frame_setMem s m, fun _ _ => rfl, fun a ha => ?_, hwf⟩
  · rw [State.storeFromI, hstore, Option.map_some, State.orRaise_some]
  · have hkept : m.read a = s.mem.read a := by rw [hread, State.base, if_neg (by omega)]
    rw [State.memRead_advance, State.memRead_setMem, hkept, State.memRead]

end Shapes

-- The conditional values of `pc`.

theorem State.skipIf_beq_pc (s : State) (a b : Byte) : (s.skipIf (a == b)).pc = if a = b then s.pc + 4 else s.pc + 2 := by
  by_cases h : a = b <;> simp [h]

theorem State.skipIf_bne_pc (s : State) (a b : Byte) : (s.skipIf (a != b)).pc = if a = b then s.pc + 2 else s.pc + 4 := by
  by_cases h : a = b <;> simp [h]

/-- The key of V[x] is down exactly when the model's `keyDown` says so. -/
theorem keyIsDown_iff (s : State) (x : Reg) : KeyIsDown s x ↔ s.keyDown (s.getV x) = true := by
  constructor
  · rintro ⟨k, hk, hdown⟩
    rw [s.keyDown_of_lt _ k hk, hdown]
  · intro h
    by_cases hlt : (s.getV x).toNat < 16
    · exact ⟨⟨_, hlt⟩, rfl, (s.keyDown_of_lt _ ⟨_, hlt⟩ rfl).symm.trans h⟩
    · rw [s.keyDown_of_ge (Nat.le_of_not_lt hlt)] at h
      cases h

theorem completes_drawn (s : State) (x y : Reg) (n : Nibble) (bs : List Byte) : Completes (.draw x y n) s (s.drawn x y bs) where
  pc := rfl
  frame := frame_drawn s x y bs
  regs r hr := (s.getV_drawn x y r bs).trans (if_neg (of_decide_eq_false hr))
  bytes _ _ := rfl
  canonical hwf := (congrArg Memory.wf (s.drawn_mem x y bs)).trans hwf

/-- The number of stack entries in use is 0 or the successor of an entry's index, and it is 16 or an entry's index. -/
theorem State.sp_cases (s : State) :
    (s.sp.val = 0 ∨ ∃ k : Fin 16, s.sp.val = k.val + 1) ∧ (s.sp.val = 16 ∨ ∃ k : Fin 16, s.sp.val = k.val) := by
  have hlt := s.sp.isLt
  refine ⟨?_, ?_⟩
  · by_cases h : s.sp.val = 0
    · exact .inl h
    · exact .inr ⟨⟨s.sp.val - 1, by omega⟩, by simp; omega⟩
  · by_cases h : s.sp.val = 16
    · exact .inl h
    · exact .inr ⟨⟨s.sp.val, by omega⟩, rfl⟩

/-- A condition that raises, and its error. -/
theorem raised_iff {p : Prop} [Decidable p] {a e : FatalError} : (if p then some a else none) = some e ↔ p ∧ a = e := by
  simp

/-- A condition that does not raise. -/
theorem not_raised_iff {p : Prop} [Decidable p] {a : FatalError} : (if p then some a else none) = none ↔ ¬p := by
  simp

/-- A Draw that raises nothing has its sprite in range. -/
theorem draw_in_range {x y : Reg} {n : Nibble} {s : State} (h : fatalCause (.draw x y n) s = none) :
    n.toNat = 0 ∨ s.I.toNat + n.toNat ≤ Config.memSize := by
  have hout := not_raised_iff.1 h
  rw [Config.memSize]
  omega

/-- Where a condition of R241 holds, the instruction raises its error. -/
theorem exec_of_fatalCause {i : Instr} {s : State} {e : FatalError} (h : fatalCause i s = some e) :
    exec i s = .next (raise e s) ∧ e ≠ .none := by
  cases i with
  | call nnn =>
    obtain ⟨hfull, rfl⟩ := raised_iff.1 h
    exact ⟨exec_call_of_full nnn hfull, nofun⟩
  | ret =>
    obtain ⟨hempty, rfl⟩ := raised_iff.1 h
    exact ⟨exec_ret_of_empty hempty, nofun⟩
  | draw x y n =>
    obtain ⟨hout, rfl⟩ := raised_iff.1 h
    exact ⟨exec_draw_of_gt x y (by omega) (by rw [Config.memSize]; omega), nofun⟩
  | loadBCD x =>
    obtain ⟨hout, rfl⟩ := raised_iff.1 h
    exact ⟨s.storeFromI_of_gt _ (List.cons_ne_nil _ _) (by rw [bcdDigits_length, Config.memSize]; omega), nofun⟩
  | storeRegs x =>
    obtain ⟨hout, rfl⟩ := raised_iff.1 h
    exact ⟨s.storeFromI_of_gt _ (s.regBlock_ne_nil x) (by rw [s.regBlock_length x, Config.memSize]; omega), nofun⟩
  | readRegs x =>
    obtain ⟨hout, rfl⟩ := raised_iff.1 h
    exact ⟨exec_readRegs_of_le hout, nofun⟩
  | _ => cases h

/-- Where no condition of R241 holds, the instruction completes. -/
theorem exec_completes {i : Instr} {s : State} (h : fatalCause i s = none) : ∃ t, exec i s = .next t ∧ Completes i s t := by
  cases i with
  | clear => exact ⟨_, exec_clear s, rfl, frame_setFb_setDisplay s _ _, fun _ _ => rfl, fun _ _ => rfl, id⟩
  | ret =>
    obtain hempty | ⟨k, hk⟩ := s.sp_cases.1
    · exact absurd hempty (not_raised_iff.1 h)
    · exact ⟨_, exec_ret_of_pos hk, ⟨k, hk, rfl⟩, frame_pop s _ _, fun _ _ => rfl, fun _ _ => rfl, id⟩
  | sys nnn => exact ⟨_, exec_sys nnn s, completes_setPc rfl rfl⟩
  | jump nnn => exact ⟨_, exec_jump nnn s, completes_setPc (addrWord_toNat nnn) rfl⟩
  | call nnn =>
    obtain hfull | ⟨k, hk⟩ := s.sp_cases.2
    · exact absurd hfull (not_raised_iff.1 h)
    · exact ⟨_, exec_call_of_lt nnn hk, addrWord_toNat nnn, frame_push s _ _ _ _, fun _ _ => rfl, fun _ _ => rfl, id⟩
  | skipEqI x kk => exact ⟨_, exec_skipEqI x kk s, completes_setPc (s.skipIf_beq_pc _ _) rfl⟩
  | skipNeqI x kk => exact ⟨_, exec_skipNeqI x kk s, completes_setPc (s.skipIf_bne_pc _ _) rfl⟩
  | skipEq x y => exact ⟨_, exec_skipEq x y s, completes_setPc (s.skipIf_beq_pc _ _) rfl⟩
  | loadI x kk => exact ⟨_, exec_loadI x kk s, completes_setV rfl rfl (decide_eq_true rfl)⟩
  | addI x kk => exact ⟨_, exec_addI x kk s, completes_setV rfl rfl (decide_eq_true rfl)⟩
  | loadR x y => exact ⟨_, exec_loadR x y s, completes_setV rfl rfl (decide_eq_true rfl)⟩
  | or x y => exact ⟨_, exec_or x y s, completes_setV rfl rfl (decide_eq_true rfl)⟩
  | and x y => exact ⟨_, exec_and x y s, completes_setV rfl rfl (decide_eq_true rfl)⟩
  | xor x y => exact ⟨_, exec_xor x y s, completes_setV rfl rfl (decide_eq_true rfl)⟩
  | add x y => exact ⟨_, exec_add x y s, completes_setV_setV rfl rfl (by simp [mayWriteReg]) (by simp [mayWriteReg, vf])⟩
  | sub x y => exact ⟨_, exec_sub x y s, completes_setV_setV rfl rfl (by simp [mayWriteReg]) (by simp [mayWriteReg, vf])⟩
  | subN x y => exact ⟨_, exec_subN x y s, completes_setV_setV rfl rfl (by simp [mayWriteReg]) (by simp [mayWriteReg, vf])⟩
  | shiftR x => exact ⟨_, exec_shiftR x s, completes_setV_setV rfl rfl (by simp [mayWriteReg, vf]) (by simp [mayWriteReg])⟩
  | shiftL x => exact ⟨_, exec_shiftL x s, completes_setV_setV rfl rfl (by simp [mayWriteReg, vf]) (by simp [mayWriteReg])⟩
  | skipNeq x y => exact ⟨_, exec_skipNeq x y s, completes_setPc (s.skipIf_bne_pc _ _) rfl⟩
  | loadIdx nnn => exact ⟨_, exec_loadIdx nnn s, completes_setI rfl rfl⟩
  | jumpAddV0 nnn => exact ⟨_, exec_jumpAddV0 nnn s, completes_setPc (addrWord_add_zext16_toNat nnn _) rfl⟩
  | rand x kk => exact ⟨_, exec_rand x kk s, completes_setV rfl rfl (decide_eq_true rfl)⟩
  | draw x y n => exact ⟨_, exec_draw_of_le x y (draw_in_range h), completes_drawn s x y n _⟩
  | skipEqKey x =>
    refine ⟨_, exec_skipEqKey x s, completes_setPc ?_ rfl⟩
    simp only [PcAfter, keyIsDown_iff]
    cases s.keyDown (s.getV x) <;> simp
  | skipNeqKey x =>
    refine ⟨_, exec_skipNeqKey x s, completes_setPc ?_ rfl⟩
    simp only [PcAfter, keyIsDown_iff]
    cases s.keyDown (s.getV x) <;> simp
  | loadFromDT x => exact ⟨_, exec_loadFromDT x s, completes_setV rfl rfl (decide_eq_true rfl)⟩
  | loadKey x =>
    cases hkey : s.inp.lastKey with
    | some c => exact ⟨_, exec_loadKey_of_some x hkey, completes_setV (by simp [PcAfter, hkey]) rfl (decide_eq_true rfl)⟩
    | none =>
      refine ⟨s, exec_loadKey_of_none x hkey, by simp [PcAfter, hkey], ⟨fun p _ => ?_, rfl, rfl, rfl, rfl, rfl⟩, fun _ _ => rfl,
        fun _ _ => rfl, id⟩
      cases p <;> simp [Piece.same]
  | setDT x => exact ⟨_, exec_setDT x s, rfl, frame_setDt s _, fun _ _ => rfl, fun _ _ => rfl, id⟩
  | setST x => exact ⟨_, exec_setST x s, rfl, frame_setSt s _, fun _ _ => rfl, fun _ _ => rfl, id⟩
  | addIdx x => exact ⟨_, exec_addIdx x s, completes_setI rfl rfl⟩
  | loadSprite x => exact ⟨_, exec_loadSprite x s, completes_setI rfl rfl⟩
  | loadBCD x =>
    have hin : s.I.toNat + 2 < 4096 := Nat.lt_of_not_le (not_raised_iff.1 h)
    exact completes_storeFromI (by rw [bcdDigits_length, Config.memSize]; omega) (fun _ => rfl) rfl rfl
  | storeRegs x =>
    have hin : s.I.toNat + x.val < 4096 := Nat.lt_of_not_le (not_raised_iff.1 h)
    exact completes_storeFromI (by rw [s.regBlock_length x, Config.memSize]; omega) (fun _ => rfl) rfl (s.regBlock_length x).symm
  | readRegs x =>
    have hin : s.I.toNat + x.val < 4096 := Nat.lt_of_not_le (not_raised_iff.1 h)
    exact ⟨_, exec_readRegs_of_lt hin, completes_setRegs (fun _ hpc => hpc) rfl fun _ hr =>
      s.getV_setRegs_memBlock_of_lt (Nat.lt_of_not_le (of_decide_eq_false hr))⟩

/-- An instruction always answers a next state (R240). -/
theorem exec_next (i : Instr) (s : State) : ∃ t, exec i s = .next t := by
  cases h : fatalCause i s with
  | some e => exact ⟨_, (exec_of_fatalCause h).1⟩
  | none => exact (exec_completes h).imp fun _ ht => ht.1

/-- What an instruction answered without a fatal error is what the tables say. -/
theorem completes_of_exec {i : Instr} {s t : State} (h : fatalCause i s = none) (hexec : exec i s = .next t) : Completes i s t := by
  obtain ⟨_, hnext, hc⟩ := exec_completes h
  cases hexec.symm.trans hnext
  exact hc

/-- Settles O17: an instruction raises as `fatalCause` says or completes, and completing leaves the fault register. -/
theorem fatalErrorsExactly : Obligations.FatalErrorsExactly := by
  refine fun i s => ⟨fun e h => ⟨_, (exec_of_fatalCause h).1, raisedFrom_raise e s⟩, fun h => ?_⟩
  obtain ⟨t, hexec, hc⟩ := exec_completes h
  exact ⟨t, hexec, hc.frame.2.1⟩

/-- Settles O21: completing includes the row of R24. -/
theorem programCounterTable : Obligations.ProgramCounterTable := fun _ _ h =>
  (exec_completes h).imp fun _ ⟨hexec, hc⟩ => ⟨hexec, hc.pc⟩

/-- Settles O22: completing includes the row of R40. -/
theorem writtenStateTable : Obligations.WrittenStateTable := fun _ _ _ h hexec =>
  have hc := completes_of_exec h hexec
  ⟨hc.frame, hc.regs, hc.bytes⟩

end Sys2Proof.Machine
end

section
/-! SUPPORT. What one cycle can do, said once (R120 to R128), and the totality of cycles and runs (R240). -/

namespace Sys2Proof.Machine

/-- The four ways of a cycle from `s` to `t`. -/
inductive StepTo (s : State) : State → Prop where
  /-- The machine has faulted (R128). -/
  | halted (hfault : s.fault ≠ .none) : StepTo s s.quiet
  /-- The fetch or the instruction raises (R122, R125). -/
  | raised (hrun : s.fault = .none) (e : FatalError) (he : e ≠ .none) : StepTo s (raise e s.beginCycle)
  /-- The word is UnknownOpcode (R127). -/
  | unknown (hrun : s.fault = .none) (hfetch : s.beginCycle.fetchDecode = .unknown) :
      StepTo s (s.beginCycle.setDecodeFail true).advance
  /-- The instruction completes (R124). -/
  | completed (hrun : s.fault = .none) {i : Instr} {t : State} (hfetch : s.beginCycle.fetchDecode = .instr i)
      (hcause : fatalCause i s.beginCycle = none) (hexec : exec i s.beginCycle = .next t)
      (hc : Completes i s.beginCycle t) : StepTo s t

/-- A cycle of a machine that has not faulted, by what it fetches. -/
theorem step_of_fetched {s : State} (hrun : s.fault = .none) {f : Fetched} (hfetch : s.beginCycle.fetchDecode = f) :
    step s = match (generalizing := false) f with
      | .instr i => exec i s.beginCycle
      | .unknown => execUnknownOpcode s.beginCycle
      | .outOfBounds => .next (raise .outOfBoundsMemoryAccess s.beginCycle) := by
  subst hfetch
  exact step_of_running s hrun

/-- A cycle that finds an UnknownOpcode word (R127). -/
theorem step_of_unknown {s : State} (hrun : s.fault = .none) (hfetch : s.beginCycle.fetchDecode = .unknown) :
    step s = .next (s.beginCycle.setDecodeFail true).advance :=
  step_of_fetched hrun hfetch

/-- A cycle that finds no word (R122). -/
theorem step_of_outOfBounds {s : State} (hrun : s.fault = .none) (hfetch : s.beginCycle.fetchDecode = .outOfBounds) :
    step s = .next (raise .outOfBoundsMemoryAccess s.beginCycle) :=
  step_of_fetched hrun hfetch

/-- Every cycle answers a next state, in one of the four ways. -/
theorem step_stepTo (s : State) : ∃ t, step s = .next t ∧ StepTo s t := by
  by_cases hrun : s.fault = .none
  · cases hfetch : s.beginCycle.fetchDecode with
    | outOfBounds => exact ⟨_, step_of_outOfBounds hrun hfetch, .raised hrun _ nofun⟩
    | unknown => exact ⟨_, step_of_unknown hrun hfetch, .unknown hrun hfetch⟩
    | instr i =>
      cases hcause : fatalCause i s.beginCycle with
      | some e =>
        obtain ⟨hexec, he⟩ := exec_of_fatalCause hcause
        exact ⟨_, (step_of_fetched hrun hfetch).trans hexec, .raised hrun e he⟩
      | none =>
        obtain ⟨t, hexec, hc⟩ := exec_completes hcause
        exact ⟨t, (step_of_fetched hrun hfetch).trans hexec, .completed hrun hfetch hcause hexec hc⟩
  · exact ⟨_, step_of_halted s hrun, .halted hrun⟩

theorem stepTo_of_step {s t : State} (h : step s = .next t) : StepTo s t := by
  obtain ⟨_, hnext, hto⟩ := step_stepTo s
  cases h.symm.trans hnext
  exact hto

theorem step_next (s : State) : ∃ t, step s = .next t := (step_stepTo s).imp fun _ h => h.1

/-- Settles O20: each cycle of a run answers a next state. -/
theorem everyRunCompletes : Obligations.EveryRunCompletes := by
  intro k
  induction k with
  | zero => exact fun s => ⟨s, rfl⟩
  | succ k ih =>
    intro s
    obtain ⟨u, hu⟩ := step_next s
    rw [run_succ k s u hu]
    exact ih u

/-- A run is cut before its last step. -/
theorem run_snoc {k : Nat} {s t u : State} (hrun : Host.Core.run core k s = .next t) (hstep : step t = .next u) :
    Host.Core.run core (k + 1) s = .next u := by
  induction k generalizing s with
  | zero =>
    cases hrun
    exact run_succ 0 _ u hstep
  | succ k ih =>
    obtain ⟨r, hr⟩ := step_next s
    rw [run_succ k s r hr] at hrun
    rw [run_succ (k + 1) s r hr]
    exact ih hrun

/-- A cycle that found bytes at `pc` found two. -/
theorem State.pc_of_fetched {s : State} (h : s.fetchDecode ≠ .outOfBounds) : s.pc.toNat + 1 < 4096 :=
  Nat.lt_of_not_le fun hge => h (s.fetchDecode_of_ge hge)

/-- The start of a cycle leaves the core as it was, but for the timers. -/
theorem sameCore_beginCycle (s : State) : SameCore s s.beginCycle := by simp [SameCore]

theorem State.beginCycle_dt_toNat (s : State) : s.beginCycle.dt.toNat = s.dt.toNat - s.nextInputs.ticks := drainTimer_toNat _ _

theorem State.beginCycle_st_toNat (s : State) : s.beginCycle.st.toNat = s.st.toNat - s.nextInputs.ticks := drainTimer_toNat _ _

/-- What a fatal error leaves of the cycle: the core as it was, the drained timers, no output (R125). -/
theorem raise_beginCycle_spec (e : FatalError) (s : State) :
    SameCore s (raise e s.beginCycle) ∧ NoOutput (raise e s.beginCycle) ∧
      (raise e s.beginCycle).dt.toNat = s.dt.toNat - s.nextInputs.ticks ∧
      (raise e s.beginCycle).st.toNat = s.st.toNat - s.nextInputs.ticks := by
  simp [SameCore, NoOutput, drainTimer_toNat]

end Sys2Proof.Machine
end

section
/-! SUPPORT. The cycle by its phases: the drain, the fetch, the two no-ops and the errors (R120 to R128, R240 to R244). -/

namespace Sys2Proof.Machine

/-- Settles O12: the bytes at `pc` decode to the instruction, and the start of a cycle touches no other piece of the core. -/
theorem stepRunsTheDecodedInstruction : Obligations.StepRunsTheDecodedInstruction := by
  intro s hi lo i hrun hhi hlo hdecode
  have hfetch : s.beginCycle.fetchDecode = .instr i := by rw [s.beginCycle_fetchDecode_of_bytes hi lo hhi hlo, hdecode]
  exact ⟨step_of_fetched hrun hfetch, sameCore_beginCycle s, rfl, ⟨rfl, rfl⟩, rfl, rfl, rfl, rfl, rfl, rfl⟩

/-- The first of `k + 1` pulses is one pulse. -/
theorem drainTimer_succ (t : Byte) (k : Nat) : drainTimer t (k + 1) = drainTimer (if 0 < t.toNat then t - 1 else t) k := by
  apply BitVec.eq_of_toNat_eq
  rw [drainTimer_toNat, drainTimer_toNat]
  split
  · rw [BitVec.toNat_sub_of_le (BitVec.le_def.2 (by simp; omega))]
    simp
    omega
  · omega

theorem drainTimer_eq_iterate (t : Byte) (k : Nat) : drainTimer t k = (fun u : Byte => if 0 < u.toNat then u - 1 else u)^[k] t := by
  induction k generalizing t with
  | zero => exact BitVec.eq_of_toNat_eq (drainTimer_toNat t 0)
  | succ k ih => rw [drainTimer_succ, ih, Function.iterate_succ_apply]

/-- Settles O13: the drain's number and its iteration, both timers at the start of a cycle, and none of it when faulted. -/
theorem tickDrain : Obligations.TickDrain := by
  refine ⟨fun t k => ⟨drainTimer_toNat t k, drainTimer_eq_iterate t k⟩,
    fun s => ⟨s.beginCycle_dt_toNat, s.beginCycle_st_toNat⟩, step_of_running, fun s t hfault h => ?_⟩
  cases (step_of_halted s hfault).symm.trans h
  exact ⟨rfl, rfl⟩

/-- Two bytes side by side are the high one shifted up and the low one in the bits below. -/
theorem shiftLeft_or_eq_append (hi lo : Byte) : (hi.setWidth 16 <<< 8) ||| lo.setWidth 16 = (hi ++ lo : Word) := by
  apply BitVec.eq_of_toNat_eq
  rw [toNat_append, BitVec.toNat_or, BitVec.toNat_shiftLeft, BitVec.toNat_setWidth, BitVec.toNat_setWidth, Nat.shiftLeft_eq,
    Nat.mod_eq_of_lt (a := hi.toNat) (by omega), Nat.mod_eq_of_lt (a := lo.toNat) (by omega), Nat.mod_eq_of_lt (by omega),
    ← Nat.shiftLeft_eq, Nat.shiftLeft_add_eq_or_of_lt lo.isLt]

/-- Settles O14: the word is the two bytes side by side, which is what the fetch decodes. -/
theorem fetchIsBigEndian : Obligations.FetchIsBigEndian := by
  intro s hi lo w hhi hlo hw
  rw [shiftLeft_or_eq_append] at hw
  subst hw
  rw [s.fetchDecode_of_bytes hi lo hhi hlo]
  exact ⟨fun i h => by rw [h], fun h => by rw [h]⟩

/-- Settles O15: the fetch finds no word, and raising keeps what the start of the cycle left. -/
theorem fetchBeyondMemoryRaises : Obligations.FetchBeyondMemoryRaises := by
  intro s hrun hpc
  have hfetch : s.beginCycle.fetchDecode = .outOfBounds := s.beginCycle.fetchDecode_of_ge hpc
  exact ⟨_, step_of_outOfBounds hrun hfetch, raise_fault _ _, raise_beginCycle_spec _ s⟩

/-- Settles O16: the cycle only reports the failure and advances. -/
theorem decodeFailureIsNoOp : Obligations.DecodeFailureIsNoOp := by
  intro s hi lo hrun hhi hlo hdecode
  have hfetch : s.beginCycle.fetchDecode = .unknown := by rw [s.beginCycle_fetchDecode_of_bytes hi lo hhi hlo, hdecode]
  refine ⟨_, step_of_unknown hrun hfetch, ?_⟩
  simp [hrun, drainTimer_toNat]

/-- Settles O18: of the ways of a cycle only raising sets `fault`, and it keeps what the start of the cycle left. -/
theorem fatalErrorsArePrecise : Obligations.FatalErrorsArePrecise := by
  intro s t hrun h hfault
  cases stepTo_of_step h with
  | halted hf => exact absurd hrun hf
  | raised _ e _ => exact raise_beginCycle_spec e s
  | unknown => exact absurd hrun (by simpa using hfault)
  | completed _ _ _ _ hc =>
    obtain ⟨-, hkept, -⟩ := hc.frame
    exact absurd (hkept.trans ((State.beginCycle_fault s).trans hrun)) hfault

/-- A faulted machine is quiet from its first cycle on. -/
theorem run_of_halted (k : Nat) {s : State} (h : s.fault ≠ .none) : Host.Core.run core (k + 1) s = .next s.quiet := by
  induction k generalizing s with
  | zero => exact run_succ 0 s _ (step_of_halted s h)
  | succ k ih => exact (run_succ (k + 1) s _ (step_of_halted s h)).trans (ih h)

/-- Settles O19: no cycle changes the machine, and every cycle clears the outputs. -/
theorem faultedMachineStaysStopped : Obligations.FaultedMachineStaysStopped := by
  intro k s h
  cases k with
  | zero => exact ⟨s, rfl, ⟨rfl, rfl, rfl, rfl, rfl, rfl, rfl⟩, rfl, rfl, rfl, nofun⟩
  | succ k => exact ⟨_, run_of_halted k h, ⟨rfl, rfl, rfl, rfl, rfl, rfl, rfl⟩, rfl, rfl, rfl, fun _ => ⟨rfl, rfl⟩⟩

end Sys2Proof.Machine
end

section
/-! SUPPORT. Loads in their order (R281, R282, D22). -/

namespace Sys2Proof.Machine

/-- Everything a load that answers a next state did. -/
theorem load_cases {bytes : List Byte} {s t : State} (h : load bytes s = .next t) :
    ∃ m : Memory, t = (s.setMem m).setLife .loaded ∧ (s.mem.wf = true → m.wf = true) := by
  unfold load at h
  split at h
  · cases h
  split at h
  · cases h
  · rename_i hlen
    have hfits : Config.progBase + bytes.length ≤ Config.memSize := Nat.add_le_add_left (Nat.le_of_not_lt hlen) Config.progBase
    obtain ⟨m, hstore, -, hwf⟩ := s.storeBlock_of_le Config.progBase bytes (.inr hfits)
    rw [hstore] at h
    cases h
    exact ⟨m, rfl, hwf⟩

theorem load_of_life_ne {bytes : List Byte} {s : State} (h : s.life ≠ .constructed) : load bytes s = .refused .loadOutOfOrder := by
  simp [load, h]

/-- Once a cycle has begun the machine counts as running. -/
theorem life_of_step {s t : State} (hrun : s.fault = .none) (h : step s = .next t) : t.life = .running := by
  cases stepTo_of_step h with
  | halted hf => exact absurd hrun hf
  | raised | unknown => rfl
  | completed _ _ _ _ hc =>
    obtain ⟨-, -, -, -, -, hlife⟩ := hc.frame
    exact hlife

/-- Settles O10: a load and a cycle leave the machine loaded or running, and only a constructed one is loaded. -/
theorem loadOutOfOrderIsRefused : Obligations.LoadOutOfOrderIsRefused := by
  refine fun s t first bytes => ⟨fun h => ?_, fun hrun h => load_of_life_ne (by rw [life_of_step hrun h]; nofun)⟩
  obtain ⟨m, rfl, -⟩ := load_cases h
  exact load_of_life_ne nofun

end Sys2Proof.Machine
end

section
/-! SUPPORT. The invariants of a step: the canonical form of the memory (R30) and its uniqueness, and the bound of `pc` and of the
stack entries in use (R25, R140). -/

namespace Sys2Proof.Machine

/-- Settles O25: no way of a cycle but a completed instruction touches the memory, and that keeps the form. -/
theorem memoryStaysCanonical : Obligations.MemoryStaysCanonical := by
  intro s t h hstep
  cases stepTo_of_step hstep with
  | halted | raised | unknown => simpa [State.memCanonical] using h
  | completed _ _ _ _ hc => exact hc.canonical (by simpa [State.memCanonical] using h)

/-- Every stack entry in use is at most 4096. -/
def State.stackBounded (s : State) : Prop := ∀ k : Fin 16, k.val < s.sp.val → s.stack[k].toNat ≤ 4096

theorem toNat_add_two (w : Word) (h : w.toNat + 1 < 4096) : (w + 2).toNat = w.toNat + 2 := by
  have h2 : (2 : Word).toNat = 2 := rfl
  rw [BitVec.toNat_add]
  omega

theorem toNat_add_four (w : Word) (h : w.toNat + 1 < 4096) : (w + 4).toNat = w.toNat + 4 := by
  have h4 : (4 : Word).toNat = 4 := rfl
  rw [BitVec.toNat_add]
  omega

/-- From a `pc` at which a word was fetched, every row of R24 stays within 0x10FE. -/
theorem PcAfter.le {i : Instr} {s t : State} (h : PcAfter i s t) (hpc : s.pc.toNat + 1 < 4096) (hstack : s.stackBounded) :
    t.pc.toNat ≤ 0x10FE := by
  have h2 := toNat_add_two s.pc hpc
  have h4 := toNat_add_four s.pc hpc
  have hskip : t.pc = s.pc + 4 ∨ t.pc = s.pc + 2 → t.pc.toNat ≤ 0x10FE := by
    rintro (e | e) <;> rw [e] <;> omega
  cases i with
  | jump nnn | call nnn =>
    have h : t.pc.toNat = nnn.toNat := h
    omega
  | ret =>
    obtain ⟨k, hk, e⟩ := h
    have := hstack k (by omega)
    rw [e]
    omega
  | jumpAddV0 nnn =>
    have h : t.pc.toNat = nnn.toNat + (s.getV 0).toNat := h
    omega
  | skipEqI | skipEq => exact hskip ((ite_eq_or_eq ..).imp (Eq.trans h) (Eq.trans h))
  | skipNeqI | skipNeq => exact hskip ((ite_eq_or_eq ..).symm.imp (Eq.trans h) (Eq.trans h))
  | skipEqKey x => exact hskip ((Classical.em (KeyIsDown s x)).imp h.1 h.2)
  | skipNeqKey x => exact hskip ((Classical.em (KeyIsDown s x)).symm.imp h.2 h.1)
  | loadKey x =>
    have h : t.pc = if s.inp.lastKey = none then s.pc else s.pc + 2 := h
    rw [h]
    split <;> omega
  | _ => exact hskip (.inr h)

theorem stack_mem_writtenPieces {i : Instr} (h : Piece.stack ∈ writtenPieces i) : i = .ret ∨ ∃ nnn, i = .call nnn := by
  cases i with
  | ret => exact .inl rfl
  | call nnn => exact .inr ⟨nnn, rfl⟩
  | _ => simp [writtenPieces] at h

/-- Call pushes an address at most 4096, Return leaves the entries, no other instruction touches the stack. -/
theorem stackBounded_of_exec {i : Instr} {s t : State} (hcause : fatalCause i s = none) (hexec : exec i s = .next t)
    (hpc : s.pc.toNat + 1 < 4096) (h : s.stackBounded) : t.stackBounded := by
  by_cases hi : Piece.stack ∈ writtenPieces i
  · obtain rfl | ⟨nnn, rfl⟩ := stack_mem_writtenPieces hi
    · obtain hempty | ⟨k, hk⟩ := s.sp_cases.1
      · exact absurd hempty (not_raised_iff.1 hcause)
      obtain ⟨_, hnext, -, hsp, hstack, -⟩ := (returnPopsToPc s).1 k hk
      cases hexec.symm.trans hnext
      intro j hj
      rw [hstack]
      exact h j (by omega)
    · obtain hfull | ⟨k, hk⟩ := s.sp_cases.2
      · exact absurd hfull (not_raised_iff.1 hcause)
      obtain ⟨_, hnext, -, hsp, hpushed, hkept, -⟩ := (callPushesReturnAddress nnn s).1 k hk
      cases hexec.symm.trans hnext
      intro j hj
      by_cases hjk : j = k
      · rw [hjk, hpushed, toNat_add_two s.pc hpc]
        omega
      · rw [hkept j hjk]
        exact h j (by have := Fin.val_ne_of_ne hjk; omega)
  · obtain ⟨hsp, hstack⟩ := (completes_of_exec hcause hexec).frame.1 .stack hi
    intro j hj
    rw [hstack]
    exact h j (by rw [← hsp]; exact hj)

/-- Settles O27: a cycle that fetched had `pc` below 4095, from where R24 stays in the bound and a Call pushes at most 4096. -/
theorem programCounterStaysBounded : Obligations.ProgramCounterStaysBounded := by
  intro s t h hstep
  obtain ⟨hpc, hstack⟩ := h
  cases stepTo_of_step hstep with
  | halted | raised => simpa [State.pcBounded] using ⟨hpc, hstack⟩
  | unknown _ hfetch =>
    have hlt : s.pc.toNat + 1 < 4096 := State.pc_of_fetched (s := s.beginCycle) (by rw [hfetch]; nofun)
    have hnext := toNat_add_two s.pc hlt
    exact ⟨by simp only [State.advance_pc, State.setDecodeFail_pc, State.beginCycle_pc]; omega, by simpa using hstack⟩
  | completed _ hfetch hcause hexec hc =>
    have hlt : s.beginCycle.pc.toNat + 1 < 4096 := State.pc_of_fetched (s := s.beginCycle) (by rw [hfetch]; nofun)
    have hstack' : s.beginCycle.stackBounded := by simpa [State.stackBounded] using hstack
    exact ⟨hc.pc.le hlt hstack', stackBounded_of_exec hcause hexec hlt hstack'⟩

/-- Settles O28: after reset nothing is listed and nothing is in use; a load replaces the memory by one in the form. -/
theorem resetMeetsTheInvariants : Obligations.ResetMeetsTheInvariants := by
  refine ⟨Memory.wf_reset, ⟨by decide, fun k hk => absurd hk (Nat.not_lt_zero k)⟩, fun s t bytes hmem hpc h => ?_⟩
  obtain ⟨m, rfl, hwf⟩ := load_cases h
  exact ⟨hwf hmem, hpc⟩

-- Uniqueness of the canonical form.

/-- A byte below the listed addresses reads as unlisted. -/
theorem Memory.read_of_wfFrom {lo a : Nat} {m : Memory} (h : Memory.wfFrom lo m = true) (ha : a < lo) :
    m.read a = Memory.initial a := by
  induction m generalizing lo with
  | nil => rfl
  | cons c m ih =>
    obtain ⟨b, v⟩ := c
    obtain ⟨hlo, -, -, hrest⟩ := (Memory.wfFrom_cons lo b v m).1 h
    rw [Memory.read_cons, if_neg (by omega)]
    exact ih hrest (by omega)

/-- The first listed byte differs from a memory whose listed addresses are all higher. -/
theorem Memory.read_ne_of_wfFrom_cons {lo b : Nat} {v : Byte} {m n : Memory} (hm : Memory.wfFrom lo ((b, v) :: m) = true)
    (hn : Memory.wfFrom (b + 1) n = true) : b < 4096 ∧ Memory.read ((b, v) :: m) b ≠ n.read b := by
  obtain ⟨-, hb, hv, -⟩ := (Memory.wfFrom_cons lo b v m).1 hm
  rw [Memory.read_cons, if_pos rfl, Memory.read_of_wfFrom hn (Nat.lt_succ_self b)]
  exact ⟨hb, hv⟩

theorem Memory.eq_of_read_eq {m n : Memory} {lo : Nat} (hm : Memory.wfFrom lo m = true) (hn : Memory.wfFrom lo n = true)
    (h : ∀ a, a < 4096 → m.read a = n.read a) : m = n := by
  induction m generalizing n lo with
  | nil =>
    cases n with
    | nil => rfl
    | cons c n =>
      obtain ⟨hb, hne⟩ := Memory.read_ne_of_wfFrom_cons (n := []) hn rfl
      exact absurd (h _ hb).symm hne
  | cons c m ih =>
    obtain ⟨b, v⟩ := c
    obtain ⟨hlo, hb, hv, hm'⟩ := (Memory.wfFrom_cons lo b v m).1 hm
    cases n with
    | nil =>
      obtain ⟨hb, hne⟩ := Memory.read_ne_of_wfFrom_cons (n := []) hm rfl
      exact absurd (h _ hb) hne
    | cons c n =>
      obtain ⟨d, w⟩ := c
      obtain ⟨hlo', hd, hw, hn'⟩ := (Memory.wfFrom_cons lo d w n).1 hn
      obtain hlt | rfl | hgt := Nat.lt_trichotomy b d
      · have hhigh : Memory.wfFrom (b + 1) ((d, w) :: n) = true := (Memory.wfFrom_cons ..).2 ⟨hlt, hd, hw, hn'⟩
        obtain ⟨hb, hne⟩ := Memory.read_ne_of_wfFrom_cons hm hhigh
        exact absurd (h b hb) hne
      · have hvw : v = w := by simpa [Memory.read_cons] using h b hb
        rw [hvw, ih hm' hn' fun a ha => ?_]
        by_cases hab : a = b
        · rw [Memory.read_of_wfFrom hm' (by omega), Memory.read_of_wfFrom hn' (by omega)]
        · simpa [Memory.read_cons, hab] using h a ha
      · have hhigh : Memory.wfFrom (d + 1) ((b, v) :: m) = true := (Memory.wfFrom_cons ..).2 ⟨hgt, hb, hv, hm'⟩
        obtain ⟨hd, hne⟩ := Memory.read_ne_of_wfFrom_cons hn hhigh
        exact absurd (h d hd).symm hne

/-- Settles O26: the first address at which two lists differ is listed in one and reads as unlisted in the other. -/
theorem canonicalMemoryIsUnique : Obligations.CanonicalMemoryIsUnique := fun _ _ hm hn h => Memory.eq_of_read_eq hm hn h

end Sys2Proof.Machine
end

section
/-! SUPPORT. The display sink's copy along a run (R204), and the machine with no program loaded (R283). -/

namespace Sys2Proof.Machine

theorem display_pieces (i : Instr) : i = .clear ∨ (∃ x y n, i = .draw x y n) ∨
    (Piece.frameBuffer ∉ writtenPieces i ∧ Piece.display ∉ writtenPieces i) := by
  cases i with
  | clear => exact .inl rfl
  | draw x y n => exact .inr (.inl ⟨x, y, n, rfl⟩)
  | _ => exact .inr (.inr (by simp [writtenPieces]))

/-- The event of an instruction tells what it did to the frame buffer. -/
theorem applyEvent_of_exec {i : Instr} {s t : State} (hquiet : s.display = none) (hcause : fatalCause i s = none)
    (hexec : exec i s = .next t) : applyEvent s.fb t.display = t.fb := by
  obtain rfl | ⟨x, y, n, rfl⟩ | ⟨hfb, hdisplay⟩ := display_pieces i
  · cases hexec.symm.trans (exec_clear s)
    rfl
  · cases hexec.symm.trans (exec_draw_of_le x y (draw_in_range hcause))
    exact s.applyEvent_drawn x y n
  · have hc := completes_of_exec hcause hexec
    have hevent : t.display = s.display := hc.frame.1 .display hdisplay
    have hsame : t.fb = s.fb := hc.frame.1 .frameBuffer hfb
    rw [hevent, hquiet, hsame, applyEvent]

/-- The event of a cycle tells what the cycle did to the frame buffer. -/
theorem applyEvent_of_step {s t : State} (h : step s = .next t) : applyEvent s.fb t.display = t.fb := by
  cases stepTo_of_step h with
  | halted | raised | unknown => simp [applyEvent]
  | completed _ _ hcause hexec _ => exact applyEvent_of_exec (s := s.beginCycle) s.beginCycle_display hcause hexec

/-- The sink's copy after a first cycle. -/
theorem mirror_succ {s t : State} (k : Nat) (fb : FrameBuffer) (h : step s = .next t) :
    mirror (k + 1) s fb = mirror k t (applyEvent fb t.display) := by
  simp [mirror, h]

/-- Settles O55: each cycle's event carries the copy along. -/
theorem displayEventsMirrorTheFrameBuffer : Obligations.DisplayEventsMirrorTheFrameBuffer := by
  intro k
  induction k with
  | zero =>
    intro s t h
    cases h
    rfl
  | succ k ih =>
    intro s t h
    obtain ⟨u, hu⟩ := step_next s
    rw [run_succ k s u hu] at h
    rw [mirror_succ k s.fb hu, applyEvent_of_step hu]
    exact ih u t h

/-- Where the machine with no program stands after `k` cycles. -/
def EmptyAfter (k : Nat) (t : State) : Prop :=
  t.safe ∧ NoOutput t ∧ t.pc.toNat = 0x200 + 2 * k ∧ SameCore State.reset (t.setPc State.reset.pc) ∧ t.dt = 0 ∧ t.st = 0

theorem emptyAfter_reset : EmptyAfter 0 State.reset := ⟨rfl, ⟨rfl, rfl⟩, rfl, ⟨rfl, rfl, rfl, rfl, rfl, rfl, rfl⟩, rfl, rfl⟩

theorem EmptyAfter.mem {k : Nat} {t : State} (h : EmptyAfter k t) : t.mem = [] := by
  obtain ⟨-, -, -, ⟨-, -, -, -, -, -, hmem⟩, -⟩ := h
  exact hmem

theorem drainTimer_zero (k : Nat) : drainTimer 0 k = 0 := if_pos rfl

/-- Within memory the cycle finds SYS(0), since above the font every byte is 0. -/
theorem EmptyAfter.fetchDecode {k : Nat} {t : State} (h : EmptyAfter k t) (hk : k < 1792) :
    t.beginCycle.fetchDecode = .instr (.sys 0) := by
  have hpc : t.pc.toNat = 0x200 + 2 * k := by
    obtain ⟨-, -, hpc, -⟩ := h
    exact hpc
  have hzero : ∀ a, 0x200 ≤ a → a < 4096 → t.memRead a = some 0 := fun a hlo hhi => by
    rw [t.memRead_of_lt hhi, h.mem, Memory.read_nil, Memory.initial_of_le (by rw [fontTable_length]; omega)]
  rw [t.beginCycle_fetchDecode_of_bytes 0 0 (hzero _ (by omega) (by omega)) (hzero _ (by omega) (by omega))]
  rfl

/-- Such a cycle advances `pc` and changes nothing else. -/
theorem EmptyAfter.step {k : Nat} {t : State} (h : EmptyAfter k t) (hk : k < 1792) :
    ∃ u, step t = .next u ∧ EmptyAfter (k + 1) u := by
  have hfetch := h.fetchDecode hk
  obtain ⟨hsafe, -, hpc, hcore, hdt, hst⟩ := h
  have hnext : (t.pc + 2).toNat = 0x200 + 2 * (k + 1) := by rw [toNat_add_two t.pc (by omega), hpc]; omega
  refine ⟨t.beginCycle.advance, (step_of_fetched hsafe hfetch).trans (exec_sys 0 _), ?_⟩
  refine ⟨by simpa [State.safe] using hsafe, by simp [NoOutput], hnext, by simpa [SameCore] using hcore, ?_, ?_⟩
  · rw [State.advance_dt, State.beginCycle_dt, hdt, drainTimer_zero]
  · rw [State.advance_st, State.beginCycle_st, hst, drainTimer_zero]

theorem run_empty (k : Nat) (hk : k ≤ 1792) : ∃ t : State, Host.Core.run core k State.reset = .next t ∧ EmptyAfter k t := by
  induction k with
  | zero => exact ⟨_, rfl, emptyAfter_reset⟩
  | succ k ih =>
    obtain ⟨t, hrun, ht⟩ := ih (by omega)
    obtain ⟨u, hstep, hu⟩ := ht.step (by omega)
    exact ⟨u, run_snoc hrun hstep, hu⟩

/-- Settles O11: 1792 cycles of SYS(0) one after another, and then a fetch beyond memory. -/
theorem emptyMachineRunsOffMemory : Obligations.EmptyMachineRunsOffMemory := by
  refine ⟨fun k hk => ?_, ?_⟩
  · obtain ⟨t, hrun, ht⟩ := run_empty k hk
    have hfetch := fun h => ht.fetchDecode h
    obtain ⟨hsafe, hout, hpc, hcore, hdt, hst⟩ := ht
    exact ⟨t, hrun, hsafe, hout, hpc, hcore, hdt, hst, hfetch⟩
  · obtain ⟨t, hrun, hsafe, -, hpc, hcore, hdt, hst⟩ := run_empty 1792 (Nat.le_refl _)
    have hfetch : t.beginCycle.fetchDecode = .outOfBounds := t.beginCycle.fetchDecode_of_ge (by
      rw [State.beginCycle_pc, hpc, Config.memSize]
      omega)
    have hend : t.pc = 0x1000 := BitVec.eq_of_toNat_eq hpc
    refine ⟨_, run_snoc hrun (step_of_outOfBounds hsafe hfetch), ?_, ?_, ?_, ?_, ?_, ?_⟩
    · rw [raise_fault]
    · simp [NoOutput]
    · rw [raise_pc, State.beginCycle_pc, hend]
    · simpa [SameCore] using hcore
    · rw [raise_dt, State.beginCycle_dt, hdt, drainTimer_zero]
    · rw [raise_st, State.beginCycle_st, hst, drainTimer_zero]

end Sys2Proof.Machine
end

section
/-! SUPPORT. What instructions read of the inputs and of `st` (R28, R129): a transition commutes with replacing what it does not read.
And what writes the timers (R121, R221, R222). -/

namespace Sys2Proof.Machine

/-- The state with other inputs and another sound timer. -/
def State.withEnv (s : State) (inp : Inputs) (b : Byte) : State := { s with inp := inp, st := b }

section WithEnv
variable (s : State) (inp : Inputs) (b : Byte)

theorem raise_withEnv (e : FatalError) : raise e (s.withEnv inp b) = (raise e s).withEnv inp b := rfl

theorem State.loadBlock_withEnv (a n : Nat) : (s.withEnv inp b).loadBlock a n = s.loadBlock a n := by
  rw [State.loadBlock_eq, State.loadBlock_eq]
  rfl

theorem State.storeBlock_withEnv (a : Nat) (bs : List Byte) :
    (s.withEnv inp b).storeBlock a bs = (s.storeBlock a bs).map fun t => t.withEnv inp b := by
  induction bs generalizing s a with
  | nil => rfl
  | cons v bs ih =>
    by_cases ha : a < Config.memSize
    · simp only [State.storeBlock, State.memWrite_of_lt _ v ha]
      exact ih (s.setMem (s.mem.write a v)) (a + 1)
    · simp [State.storeBlock, State.memWrite_of_le _ v (Nat.le_of_not_lt ha)]

theorem State.orRaise_withEnv (e : FatalError) (o : Option State) :
    (s.withEnv inp b).orRaise e (o.map fun t => t.withEnv inp b) = .next ((o.getD (raise e s)).withEnv inp b) := by
  cases o <;> rfl

theorem State.storeFromI_withEnv {bs : List Byte} {t : State} (h : s.storeFromI bs = .next t) :
    (s.withEnv inp b).storeFromI bs = .next (t.withEnv inp b) := by
  cases h
  rw [State.storeFromI, State.storeBlock_withEnv, ← State.orRaise_withEnv, Option.map_map, Option.map_map]
  rfl

end WithEnv

/-- The instruction reads none of the inputs in which `inp` differs from those of `s`: only Rand reads the random byte, only LoadKey the
latch, only the key skips the keys. -/
structure ReadsSame (i : Instr) (s : State) (inp : Inputs) : Prop where
  rnd : ∀ x kk, i = .rand x kk → inp.rnd = s.inp.rnd
  lastKey : ∀ x, i = .loadKey x → inp.lastKey = s.inp.lastKey
  keys : ∀ x, i = .skipEqKey x ∨ i = .skipNeqKey x → inp.keys = s.inp.keys

/-- An instruction other than SetST takes the same transition from the state with other unread inputs and another sound timer. -/
theorem exec_withEnv {i : Instr} {s t : State} {inp : Inputs} (b : Byte) (hexec : exec i s = .next t)
    (hread : ReadsSame i s inp) (hst : ∀ x, i ≠ .setST x) : exec i (s.withEnv inp b) = .next (t.withEnv inp b) := by
  have hcause : fatalCause i (s.withEnv inp b) = fatalCause i s := by cases i <;> rfl
  cases hc : fatalCause i s with
  | some e =>
    cases (exec_of_fatalCause hc).1.symm.trans hexec
    exact (exec_of_fatalCause (hcause.trans hc)).1
  | none =>
    cases i with
    | call nnn =>
      obtain hfull | ⟨k, hk⟩ := s.sp_cases.2
      · exact absurd hfull (not_raised_iff.1 hc)
      · cases (exec_call_of_lt nnn hk).symm.trans hexec
        exact exec_call_of_lt nnn (s := s.withEnv inp b) hk
    | ret =>
      obtain hempty | ⟨k, hk⟩ := s.sp_cases.1
      · exact absurd hempty (not_raised_iff.1 hc)
      · cases (exec_ret_of_pos hk).symm.trans hexec
        exact exec_ret_of_pos (s := s.withEnv inp b) hk
    | draw x y n =>
      rw [exec_draw] at hexec ⊢
      cases hexec
      rw [State.loadBlock_withEnv, ← State.orRaise_withEnv, Option.map_map]
      rfl
    | readRegs x =>
      rw [exec_readRegs] at hexec ⊢
      cases hexec
      rw [State.loadBlock_withEnv, ← State.orRaise_withEnv, Option.map_map]
      rfl
    | loadBCD x => exact s.storeFromI_withEnv inp b hexec
    | storeRegs x => exact s.storeFromI_withEnv inp b hexec
    | rand x kk =>
      cases hexec
      rw [exec_rand, State.withEnv, hread.rnd x kk rfl]
      rfl
    | loadKey x =>
      cases hkey : s.inp.lastKey with
      | some c =>
        cases (exec_loadKey_of_some x hkey).symm.trans hexec
        exact exec_loadKey_of_some x (s := s.withEnv inp b) ((hread.lastKey x rfl).trans hkey)
      | none =>
        cases (exec_loadKey_of_none x hkey).symm.trans hexec
        exact exec_loadKey_of_none x (s := s.withEnv inp b) ((hread.lastKey x rfl).trans hkey)
    | skipEqKey x =>
      cases hexec
      rw [exec_skipEqKey, State.keyDown, State.withEnv, hread.keys x (.inl rfl)]
      rfl
    | skipNeqKey x =>
      cases hexec
      rw [exec_skipNeqKey, State.keyDown, State.withEnv, hread.keys x (.inr rfl)]
      rfl
    | setST x => exact absurd rfl (hst x)
    | _ =>
      cases hexec
      rfl

/-- The inputs and the host's side are the same after any instruction. -/
theorem sameHost_of_exec {i : Instr} {s t : State} (hexec : exec i s = .next t) : SameHost s t := by
  cases hc : fatalCause i s with
  | some e =>
    cases (exec_of_fatalCause hc).1.symm.trans hexec
    simp [SameHost]
  | none => exact (completes_of_exec hc hexec).frame.2.2

theorem delay_mem_writtenPieces {i : Instr} (h : Piece.delay ∈ writtenPieces i) : ∃ x, i = .setDT x := by
  cases i with
  | setDT x => exact ⟨x, rfl⟩
  | _ => simp [writtenPieces] at h

theorem sound_mem_writtenPieces {i : Instr} (h : Piece.sound ∈ writtenPieces i) : ∃ x, i = .setST x := by
  cases i with
  | setST x => exact ⟨x, rfl⟩
  | _ => simp [writtenPieces] at h

/-- No instruction but SetST writes `st`. -/
theorem st_of_exec {i : Instr} {s t : State} (hexec : exec i s = .next t) (hst : ∀ x, i ≠ .setST x) : t.st = s.st := by
  cases hc : fatalCause i s with
  | some e =>
    cases (exec_of_fatalCause hc).1.symm.trans hexec
    exact raise_st s e
  | none =>
    exact (completes_of_exec hc hexec).frame.1 .sound fun h => by
      obtain ⟨x, hx⟩ := sound_mem_writtenPieces h
      exact hst x hx

/-- Settles O23: replacing unread inputs commutes with every instruction; SetST, which writes `st`, reads no input either. -/
theorem inputsReadOnlyWhereNamed : Obligations.InputsReadOnlyWhereNamed := by
  intro i s t inp hrnd hkey hkeys hexec
  by_cases hi : ∃ x, i = .setST x
  · obtain ⟨x, rfl⟩ := hi
    cases hexec
    rfl
  · have hst : ∀ x, i ≠ .setST x := fun x hx => hi ⟨x, hx⟩
    have h := exec_withEnv s.st hexec ⟨hrnd, hkey, hkeys⟩ hst
    have hkept : t.withEnv inp s.st = { t with inp := inp } := by rw [State.withEnv, ← st_of_exec hexec hst]
    exact h.trans (congrArg Host.Outcome.next hkept)

/-- No instruction reads `st`, and but for SetST it stays whatever it was. -/
theorem exec_with_st {i : Instr} {s t : State} (b : Byte) (hexec : exec i s = .next t) :
    ∃ u, exec i { s with st := b } = .next u ∧ { u with st := t.st } = t := by
  by_cases hi : ∃ x, i = .setST x
  · obtain ⟨x, rfl⟩ := hi
    cases hexec
    exact ⟨_, rfl, rfl⟩
  · have h := exec_withEnv (inp := s.inp) b hexec ⟨fun _ _ _ => rfl, fun _ _ => rfl, fun _ _ => rfl⟩ fun x hx => hi ⟨x, hx⟩
    refine ⟨_, h, ?_⟩
    rw [← (sameHost_of_exec hexec).1, State.withEnv]

/-- A cycle that does not run SetDT leaves `dt` as the drain did. -/
theorem dt_of_step {s t : State} (hrun : s.fault = .none) (h : step s = .next t)
    (hset : ∀ x, s.beginCycle.fetchDecode ≠ .instr (.setDT x)) : t.dt = s.beginCycle.dt := by
  cases stepTo_of_step h with
  | halted hf => exact absurd hrun hf
  | raised | unknown => simp
  | completed _ hfetch _ _ hc =>
    refine hc.frame.1 .delay fun hw => ?_
    obtain ⟨x, rfl⟩ := delay_mem_writtenPieces hw
    exact hset x hfetch

/-- A cycle that does not run SetST leaves `st` as the drain did. -/
theorem st_of_step {s t : State} (hrun : s.fault = .none) (h : step s = .next t)
    (hset : ∀ x, s.beginCycle.fetchDecode ≠ .instr (.setST x)) : t.st = s.beginCycle.st := by
  cases stepTo_of_step h with
  | halted hf => exact absurd hrun hf
  | raised | unknown => simp
  | completed _ hfetch _ _ hc =>
    refine hc.frame.1 .sound fun hw => ?_
    obtain ⟨x, rfl⟩ := sound_mem_writtenPieces hw
    exact hset x hfetch

/-- Settles O24: only SetDT and SetST have their timer among what they write, and `st` commutes with every other transition. -/
theorem timersChangeOnlyByDrainOrSet : Obligations.TimersChangeOnlyByDrainOrSet := by
  refine ⟨fun s t hrun hstep => ⟨fun hset => ?_, fun hset => ?_, fun x hfetch => ?_, fun x hfetch => ?_⟩,
    fun i s t b => exec_with_st b⟩
  · rw [dt_of_step hrun hstep hset, s.beginCycle_dt_toNat]
  · rw [st_of_step hrun hstep hset, s.beginCycle_st_toNat]
  · cases ((step_of_fetched hrun hfetch).trans (exec_setDT x _)).symm.trans hstep
    simp
  · cases ((step_of_fetched hrun hfetch).trans (exec_setST x _)).symm.trans hstep
    simp

end Sys2Proof.Machine
end
